-- ==== Sys2Proof/Word.lean ====
section
/-!
DEFINITION. The plain data types of the block: bytes, words, 16-byte blocks, big integers and register numbers
(spec/00_scope.md R5 to R7).
-/

namespace Sys2Proof

/-- A byte: 8 bits, bit 7 the most significant (R6, R7). -/
abbrev Byte := BitVec 8

/-- A 32-bit word: a command word, a control register, bus data (R7). -/
abbrev Word := BitVec 32

/-- 16 bytes, the first byte in the most significant bits: an AES key, an AES block, a CMAC subkey (R5). -/
abbrev Block := BitVec 128

/-- An `n`-byte unsigned big-endian integer (R6): a byte string `a[0] .. a[n-1]` held as the number `val(a)`, so that byte 0
is in the most significant bits. Strings of `n` bytes and numbers below `256^n` correspond one to one (log 10). -/
abbrev Big (n : Nat) := BitVec (8 * n)

/-- The operand width a command selects with its bit `W`: `n = 20 + W` bytes (R5). -/
inductive Width where
  | w20
  | w21
deriving DecidableEq, Repr

/-- The operand length `n` in bytes. -/
@[reducible] def Width.bytes : Width → Nat
  | .w20 => 20
  | .w21 => 21

/-- The bit `W` of the command word that selects a width (R91). -/
def Width.bit : Width → Nat
  | .w20 => 0
  | .w21 => 1

/-- The number of a big-integer register, `b0` to `b15` (spec/10_state.md R21). -/
abbrev Reg := Fin 16

/-- A register number that can name a point pair (spec/10_state.md R23). -/
def Reg.isEven (r : Reg) : Bool := r.val % 2 = 0

end Sys2Proof
end

