-- ==== Sys2Proof/Syntax.lean ====
section
/-!
DEFINITION. The 27 commands of the block (spec/30_encoding.md R98), one constructor each, in the order of the opcode table.
-/

namespace Sys2Proof

/-- A decoded command with the operands its row of R98 uses. `rd` is the destination register, `ra` and `rb` the sources,
`rn` the modulus register, `w` the operand width, `addr` a `DMEM` byte offset. The register fields of point operands
(`rd`, `ra`, `rb` of the point commands but for `pmul`'s scalar, `rq` of `verify`) name the even register of a pair. -/
inductive Instr where
  /-- `LD.w r, addr` (R120) -/
  | ld (r : Reg) (w : Width) (addr : BitVec 16)
  /-- `ST r, addr` (R121) -/
  | st (r : Reg) (addr : BitVec 16)
  /-- `MOV rd, ra` (R122) -/
  | mov (rd ra : Reg)
  /-- `EXT rd, ra` (R123) -/
  | ext (rd ra : Reg)
  /-- `BNCMP.w ra, rb` (R130) -/
  | bncmp (ra rb : Reg) (w : Width)
  /-- `BNADD.w rd, ra, rb, rn` (R131) -/
  | bnadd (rd ra rb rn : Reg) (w : Width)
  /-- `BNSUB.w rd, ra, rb` (R133) -/
  | bnsub (rd ra rb : Reg) (w : Width)
  /-- `BNSUBM.w rd, ra, rb, rn` (R134) -/
  | bnsubm (rd ra rb rn : Reg) (w : Width)
  /-- `BNRED.w rd, ra, rn` (R135) -/
  | bnred (rd ra rn : Reg) (w : Width)
  /-- `BNTOMON.w rd, ra, rn` (R136) -/
  | bntomon (rd ra rn : Reg) (w : Width)
  /-- `BNFROMMON.w rd, ra, rn` (R137) -/
  | bnfrommon (rd ra rn : Reg) (w : Width)
  /-- `BNMONMUL.w rd, ra, rb, rn` (R139) -/
  | bnmonmul (rd ra rb rn : Reg) (w : Width)
  /-- `BNMONEXP.w rd, ra, rb, rn`: base `ra`, exponent `rb` (R140) -/
  | bnmonexp (rd ra rb rn : Reg) (w : Width)
  /-- `BNMONINV.w rd, ra, rn` (R141) -/
  | bnmoninv (rd ra rn : Reg) (w : Width)
  /-- `CRVLD addr` (R160) -/
  | crvld (addr : BitVec 16)
  /-- `CRVST addr` (R161) -/
  | crvst (addr : BitVec 16)
  /-- `PTOMON pd, pa` (R162) -/
  | ptomon (rd ra : Reg)
  /-- `PFROMMON pd, pa` (R163) -/
  | pfrommon (rd ra : Reg)
  /-- `PDBL pd, pa` (R164) -/
  | pdbl (rd ra : Reg)
  /-- `PADD pd, pa, pb` (R165) -/
  | padd (rd ra rb : Reg)
  /-- `PMUL pd, pa, rk`: point `ra`, scalar `rb` (R166) -/
  | pmul (rd ra rb : Reg)
  /-- `VERIFY rh, pq, rr, rs` (R180) -/
  | verify (rh rq rr rs : Reg)
  /-- `KEYLD len, addr` (R190) -/
  | keyld (len : BitVec 8) (addr : BitVec 16)
  /-- `SUBKEY` (R191) -/
  | subkey
  /-- `SKST addr` (R194) -/
  | skst (addr : BitVec 16)
  /-- `CMAC16 addr` (R197) -/
  | cmac16 (addr : BitVec 16)
  /-- `CMAC20 addr` (R198) -/
  | cmac20 (addr : BitVec 16)
deriving DecidableEq, Repr

/-- The pseudo-instruction `BNDBL.w rd, ra, rn`, an exact alias (R104). -/
def Instr.bndbl (rd ra rn : Reg) (w : Width) : Instr := .bnadd rd ra ra rn w

/-- The pseudo-instruction `BNMONSQR.w rd, ra, rn`, an exact alias (R104). -/
def Instr.bnmonsqr (rd ra rn : Reg) (w : Width) : Instr := .bnmonmul rd ra ra rn w

end Sys2Proof
end

