-- ==== Sys2Proof/WellFormed.lean ====
section
/-!
DEFINITION. Which terms of `Instr` are commands the block can be given (spec/30_encoding.md R101). Every other operand
fits its field by its type.
-/

namespace Sys2Proof

/-- Every register field that names a point pair is even (R101). `PMUL`'s scalar register may be odd. -/
def Instr.wf : Instr → Bool
  | .ptomon rd ra => rd.isEven && ra.isEven
  | .pfrommon rd ra => rd.isEven && ra.isEven
  | .pdbl rd ra => rd.isEven && ra.isEven
  | .padd rd ra rb => rd.isEven && ra.isEven && rb.isEven
  | .pmul rd ra _ => rd.isEven && ra.isEven
  | .verify _ rq _ _ => rq.isEven
  | .ld _ _ _ => true
  | .st _ _ => true
  | .mov _ _ => true
  | .ext _ _ => true
  | .bncmp _ _ _ => true
  | .bnadd _ _ _ _ _ => true
  | .bnsub _ _ _ _ => true
  | .bnsubm _ _ _ _ _ => true
  | .bnred _ _ _ _ => true
  | .bntomon _ _ _ _ => true
  | .bnfrommon _ _ _ _ => true
  | .bnmonmul _ _ _ _ _ => true
  | .bnmonexp _ _ _ _ _ => true
  | .bnmoninv _ _ _ _ => true
  | .crvld _ => true
  | .crvst _ => true
  | .keyld _ _ => true
  | .subkey => true
  | .skst _ => true
  | .cmac16 _ => true
  | .cmac20 _ => true

end Sys2Proof
end

