-- ==== Sys2Proof/Decode.lean ====
section
/-!
DEFINITION. The decoder of command words, total on all 2^32 words (spec/30_encoding.md R105), and the encoder, both written
from the formats R91 to R96 and the opcode map R98. A command is one word, taken from the bus write itself (R90,
spec/20_memory.md R73), so no byte order enters.
-/

namespace Sys2Proof

/-- Why a word is no command. All three are the spec's `Illegal`, which faults with `IllegalCommand` (R105); the names
say which rule rejects the word. -/
inductive DecodeError where
  /-- the opcode is not in the table R98 (R100) -/
  | unknownOpcode
  /-- a must-be-zero bit is set (R99) -/
  | mustBeZero
  /-- a point field is odd (R101) -/
  | oddPair
deriving DecidableEq, Repr

/-- The field `w[lo+len-1 : lo]`, read as an unsigned integer (R7, R97). -/
def bitsAt (w : Word) (lo len : Nat) : Nat := w.toNat / 2 ^ lo % 2 ^ len

/-- The 4-bit register field whose low bit is bit `lo` (R97). -/
def regAt (w : Word) (lo : Nat) : Reg := Fin.ofNat 16 (bitsAt w lo 4)

/-- The width bit `W` at bit `lo` (R91, R92). -/
def widthAt (w : Word) (lo : Nat) : Width := if bitsAt w lo 1 = 0 then .w20 else .w21

/-- The field `addr`, bits 15:0 (R92 to R94). -/
def addrAt (w : Word) : BitVec 16 := BitVec.ofNat 16 (bitsAt w 0 16)

/-- The field `len` of `KEYLD`, bits 23:16 (R94). -/
def lenAt (w : Word) : BitVec 8 := BitVec.ofNat 8 (bitsAt w 16 8)

/-- The checks of R105 after the opcode is known: every must-be-zero field, given as (low bit, length), is 0 (R99), then
every point field is even (R101). -/
def checkedAs (w : Word) (zeros : List (Nat × Nat)) (i : Instr) : Except DecodeError Instr :=
  if zeros.all (fun z => bitsAt w z.1 z.2 = 0) then
    if i.wf then .ok i else .error .oddPair
  else .error .mustBeZero

/-- `decode(w)` (R105): the command a word stands for, or the reason it is illegal. It reads no state. -/
def decode (w : Word) : Except DecodeError Instr :=
  match bitsAt w 24 8 with
  | 0x01 => checkedAs w [(17, 3)] (.ld (regAt w 20) (widthAt w 16) (addrAt w))
  | 0x02 => checkedAs w [(16, 4)] (.st (regAt w 20) (addrAt w))
  | 0x03 => checkedAs w [(0, 16)] (.mov (regAt w 20) (regAt w 16))
  | 0x04 => checkedAs w [(0, 16)] (.ext (regAt w 20) (regAt w 16))
  | 0x10 => checkedAs w [(20, 4), (8, 4), (1, 7)] (.bncmp (regAt w 16) (regAt w 12) (widthAt w 0))
  | 0x11 => checkedAs w [(1, 7)] (.bnadd (regAt w 20) (regAt w 16) (regAt w 12) (regAt w 8) (widthAt w 0))
  | 0x12 => checkedAs w [(8, 4), (1, 7)] (.bnsub (regAt w 20) (regAt w 16) (regAt w 12) (widthAt w 0))
  | 0x13 => checkedAs w [(1, 7)] (.bnsubm (regAt w 20) (regAt w 16) (regAt w 12) (regAt w 8) (widthAt w 0))
  | 0x14 => checkedAs w [(12, 4), (1, 7)] (.bnred (regAt w 20) (regAt w 16) (regAt w 8) (widthAt w 0))
  | 0x15 => checkedAs w [(12, 4), (1, 7)] (.bntomon (regAt w 20) (regAt w 16) (regAt w 8) (widthAt w 0))
  | 0x16 => checkedAs w [(12, 4), (1, 7)] (.bnfrommon (regAt w 20) (regAt w 16) (regAt w 8) (widthAt w 0))
  | 0x17 => checkedAs w [(1, 7)] (.bnmonmul (regAt w 20) (regAt w 16) (regAt w 12) (regAt w 8) (widthAt w 0))
  | 0x18 => checkedAs w [(1, 7)] (.bnmonexp (regAt w 20) (regAt w 16) (regAt w 12) (regAt w 8) (widthAt w 0))
  | 0x19 => checkedAs w [(12, 4), (1, 7)] (.bnmoninv (regAt w 20) (regAt w 16) (regAt w 8) (widthAt w 0))
  | 0x20 => checkedAs w [(16, 8)] (.crvld (addrAt w))
  | 0x21 => checkedAs w [(16, 8)] (.crvst (addrAt w))
  | 0x22 => checkedAs w [(0, 16)] (.ptomon (regAt w 20) (regAt w 16))
  | 0x23 => checkedAs w [(0, 16)] (.pfrommon (regAt w 20) (regAt w 16))
  | 0x24 => checkedAs w [(0, 16)] (.pdbl (regAt w 20) (regAt w 16))
  | 0x25 => checkedAs w [(0, 12)] (.padd (regAt w 20) (regAt w 16) (regAt w 12))
  | 0x26 => checkedAs w [(0, 12)] (.pmul (regAt w 20) (regAt w 16) (regAt w 12))
  | 0x30 => checkedAs w [(0, 8)] (.verify (regAt w 20) (regAt w 16) (regAt w 12) (regAt w 8))
  | 0x40 => checkedAs w [] (.keyld (lenAt w) (addrAt w))
  | 0x41 => checkedAs w [(0, 24)] .subkey
  | 0x42 => checkedAs w [(16, 8)] (.skst (addrAt w))
  | 0x43 => checkedAs w [(16, 8)] (.cmac16 (addrAt w))
  | 0x44 => checkedAs w [(16, 8)] (.cmac20 (addrAt w))
  | _ => .error .unknownOpcode

/-- The command the decoder reads from a row's instruction bits `w`, numbered as the opcode table numbers them. Every
command is one word of 32 bits (R90). -/
def decodeTableWord (nbits w : Nat) : Option Instr :=
  (decode (BitVec.ofNat 32 (w % 2 ^ nbits))).toOption

/-- A word with opcode `op` in bits 31:24 and each field `(value, low bit)` in its place, every other bit 0. -/
def packWord (op : Nat) (fields : List (Nat × Nat)) : Word :=
  BitVec.ofNat 32 (op * 2 ^ 24 + (fields.map fun f => f.1 * 2 ^ f.2).sum)

/-- The word of a command: the encodings of R120 to R198. -/
def encode : Instr → Word
  | .ld r w addr => packWord 0x01 [(r.val, 20), (w.bit, 16), (addr.toNat, 0)]
  | .st r addr => packWord 0x02 [(r.val, 20), (addr.toNat, 0)]
  | .mov rd ra => packWord 0x03 [(rd.val, 20), (ra.val, 16)]
  | .ext rd ra => packWord 0x04 [(rd.val, 20), (ra.val, 16)]
  | .bncmp ra rb w => packWord 0x10 [(ra.val, 16), (rb.val, 12), (w.bit, 0)]
  | .bnadd rd ra rb rn w => packWord 0x11 [(rd.val, 20), (ra.val, 16), (rb.val, 12), (rn.val, 8), (w.bit, 0)]
  | .bnsub rd ra rb w => packWord 0x12 [(rd.val, 20), (ra.val, 16), (rb.val, 12), (w.bit, 0)]
  | .bnsubm rd ra rb rn w => packWord 0x13 [(rd.val, 20), (ra.val, 16), (rb.val, 12), (rn.val, 8), (w.bit, 0)]
  | .bnred rd ra rn w => packWord 0x14 [(rd.val, 20), (ra.val, 16), (rn.val, 8), (w.bit, 0)]
  | .bntomon rd ra rn w => packWord 0x15 [(rd.val, 20), (ra.val, 16), (rn.val, 8), (w.bit, 0)]
  | .bnfrommon rd ra rn w => packWord 0x16 [(rd.val, 20), (ra.val, 16), (rn.val, 8), (w.bit, 0)]
  | .bnmonmul rd ra rb rn w => packWord 0x17 [(rd.val, 20), (ra.val, 16), (rb.val, 12), (rn.val, 8), (w.bit, 0)]
  | .bnmonexp rd ra rb rn w => packWord 0x18 [(rd.val, 20), (ra.val, 16), (rb.val, 12), (rn.val, 8), (w.bit, 0)]
  | .bnmoninv rd ra rn w => packWord 0x19 [(rd.val, 20), (ra.val, 16), (rn.val, 8), (w.bit, 0)]
  | .crvld addr => packWord 0x20 [(addr.toNat, 0)]
  | .crvst addr => packWord 0x21 [(addr.toNat, 0)]
  | .ptomon rd ra => packWord 0x22 [(rd.val, 20), (ra.val, 16)]
  | .pfrommon rd ra => packWord 0x23 [(rd.val, 20), (ra.val, 16)]
  | .pdbl rd ra => packWord 0x24 [(rd.val, 20), (ra.val, 16)]
  | .padd rd ra rb => packWord 0x25 [(rd.val, 20), (ra.val, 16), (rb.val, 12)]
  | .pmul rd ra rb => packWord 0x26 [(rd.val, 20), (ra.val, 16), (rb.val, 12)]
  | .verify rh rq rr rs => packWord 0x30 [(rh.val, 20), (rq.val, 16), (rr.val, 12), (rs.val, 8)]
  | .keyld len addr => packWord 0x40 [(len.toNat, 16), (addr.toNat, 0)]
  | .subkey => packWord 0x41 []
  | .skst addr => packWord 0x42 [(addr.toNat, 0)]
  | .cmac16 addr => packWord 0x43 [(addr.toNat, 0)]
  | .cmac20 addr => packWord 0x44 [(addr.toNat, 0)]

end Sys2Proof
end

