-- ==== Sys2Proof/Machine/Bytes.lean ====
section
/-!
DEFINITION. Byte strings and big-endian integers (spec/00_scope.md R6, R7), and the loops of the algorithms.
-/

namespace Sys2Proof.Machine

/-- Byte `i` of an `n`-byte integer: `a[0]` is the most significant byte (R6). -/
def byteAt {n : Nat} (a : Big n) (i : Nat) : Byte := a.extractLsb' (8 * (n - 1 - i)) 8

/-- The byte string of an `n`-byte integer, most significant byte first (R6). -/
def toBytes {n : Nat} (a : Big n) : List Byte := (List.range n).map (byteAt a)

/-- `val` of a byte string (R6). -/
def bytesVal (l : List Byte) : Nat := l.foldl (fun acc x => acc * 256 + x.toNat) 0

/-- The `n`-byte integer of a byte string (R6). -/
def ofBytes (n : Nat) (l : List Byte) : Big n := BitVec.ofNat (8 * n) (bytesVal l)

/-- The slice `l[i:j]`, from index `i` inclusive to `j` exclusive (R6). -/
def slice (l : List Byte) (i j : Nat) : List Byte := (l.drop i).take (j - i)

/-- The last `k` bytes of a byte string. -/
def lastBytes (k : Nat) (l : List Byte) : List Byte := l.drop (l.length - k)

/-- `f x`, with `x` computed to a numeral first when Lean's kernel evaluates it; equal to `f x` (`strictly_eq`). It stands
in the loops below so that a run of many iterations can be evaluated (log 11). -/
def strictly {α : Type} {k : Nat} (x : BitVec k) (f : BitVec k → α) : α :=
  match x.toNat with
  | 0 => f 0
  | m + 1 => f (BitVec.ofNat k (m + 1))

/-- `count` passes of a loop whose counter starts at `i`: the body gets the counter and the running value `d`
(`iterate_succ`: one pass, then the rest). -/
def iterate {k : Nat} (body : Nat → BitVec k → BitVec k) : (count i : Nat) → BitVec k → BitVec k
  | 0, _, d => d
  | count + 1, i, d => strictly (body i d) (iterate body count (i + 1))

end Sys2Proof.Machine
end

