-- ==== Sys2Proof/Config.lean ====
section
/-!
DEFINITION. What an implementation fixes and what the spec leaves as an argument of the model
(spec/00_scope.md R5, R9, R10; spec/93_implementation_defined.md U10).
-/

namespace Sys2Proof

/-- `AES128_ENC(key, block)`: the external AES-128 primitive, a total function of key and block of which nothing may be
assumed (R9; spec/92_eei_decisions.md D30). A constant with no body, so that no proof can depend on its values.
DESIGN CHOICE, safe (log 3). -/
opaque Config.aes128Enc : Block → Block → Block

/-- `SHA1(bytes)`: the external primitive of the HOST procedure (R10). The block never computes it, so no step reads this
constant; only the transcription of the host procedure does (log 12). -/
opaque Config.sha1 : List Byte → Big 20

/-- The value of the identity register `ID` (spec/10_state.md R35). -/
def Config.idValue : Word := 0x504B5607

/-- The legal values of the parameter `DMEM_BYTES` (R5): a multiple of 4 from 256 to 65536. -/
abbrev Config.LegalDmemBytes (n : Nat) : Prop := n % 4 = 0 ∧ 256 ≤ n ∧ n ≤ 65536

/-- The value of `DMEM_BYTES` that `State.reset` takes: the spec's examples use it. The parameter itself is OPEN and is
carried by the state, so that statements hold for every legal value. DESIGN CHOICE, safe for statements over all states,
unsafe for one about `State.reset` alone (log 2). -/
def Config.dmemBytesAtReset : Nat := 4096

end Sys2Proof
end

