-- ==== Sys2Proof/Machine/State.lean ====
section
/-!
DEFINITION. The state of the block (spec/10_state.md R20 to R46), the actions of its surroundings, the reasons a step can
stop, and the state after reset.
-/

namespace Sys2Proof.Machine

/-- The fault codes of `STATUS.ERR` (spec/60_exceptions.md R220). "No fault", code 0, is the absence of a value. -/
inductive FaultCode where
  /-- `0x01`: a source register is `EMPTY` or has not the expected length (R221) -/
  | invalidLength
  /-- `0x02`: the `len` of `KEYLD` is not 16 (R222) -/
  | invalidKeyLength
  /-- `0x03`: an operand register of `VERIFY` has not tag 20 (R223) -/
  | invalidSignatureInput
  /-- `0x04`: reserved, never raised (R224) -/
  | primeModulusRequired
  /-- `0x10`: the command word does not decode (R225) -/
  | illegalCommand
  /-- `0x11`: a `DMEM` range does not fit (R226) -/
  | addressRange
  /-- `0x12`: the curve context is needed and `CRV = 0` (R227) -/
  | curveNotLoaded
  /-- `0x13`: the key is needed and `KEYV = 0`, or the subkeys and `SKV = 0` (R228) -/
  | keyNotLoaded
  /-- `0x14`: `CMAC20` with `MSGLEN <= 16` (R229) -/
  | shortMessage
deriving DecidableEq, Repr

/-- A big-integer register: its tag and, when the tag is not `EMPTY`, a value of exactly that many bytes (R21). -/
inductive BigReg where
  /-- tag `EMPTY`: no value -/
  | empty
  /-- tag 20, a FieldElement-sized value, or tag 21, a WideInteger-sized value -/
  | val (w : Width) (x : Big w.bytes)
deriving DecidableEq, Repr

/-- A curve point: a pair of 20-byte coordinates (R23). -/
structure Point where
  x : Big 20
  y : Big 20
deriving DecidableEq, Repr

/-- The curve context, six registers of 20 bytes (R29). -/
structure CurveContext where
  /-- `CP`, the prime modulus, plain -/
  cp : Big 20
  /-- `CA`, the coefficient `a`, Montgomery form mod `p` -/
  ca : Big 20
  /-- `CB`, the coefficient `b`, Montgomery form mod `p` -/
  cb : Big 20
  /-- `CN`, the order, plain -/
  cn : Big 20
  /-- `CGX`, `G.x`, Montgomery form mod `p` -/
  cgx : Big 20
  /-- `CGY`, `G.y`, Montgomery form mod `p` -/
  cgy : Big 20
deriving DecidableEq, Repr

/-- The curve context of a block without a curve: all bytes zero (R46). -/
def CurveContext.zero : CurveContext := { cp := 0, ca := 0, cb := 0, cn := 0, cgx := 0, cgy := 0 }

/-- The operand memory `DMEM` (R42) as a list of (address, byte) pairs in one canonical form: addresses strictly rising,
and no entry equal to what an unlisted address reads as (`Memory.wf` in Ops). -/
abbrev Memory := List Host.Cell

/-- The size of a bus access. Only `word` is served (spec/20_memory.md R62). -/
inductive AccessSize where
  | byte
  | half
  | word
deriving DecidableEq, Repr

/-- What the surroundings of the engine can make happen next (R11; spec/20_memory.md R71; spec/70_reset_and_hazards.md R250).
An offset is a byte offset in the 128 KiB window of the bus map (R60). -/
inductive Event where
  /-- the host reads -/
  | busRead (size : AccessSize) (offset : BitVec 17)
  /-- the host writes -/
  | busWrite (size : AccessSize) (offset : BitVec 17) (data : Word)
  /-- the moment at which a running command completes (spec/30_encoding.md R106); without effect on an idle block -/
  | complete
  /-- the platform asserts the hardware reset; `DMEM` then holds `content` (R46: "every byte may hold any value") -/
  | hardReset (content : List Host.Cell)
deriving DecidableEq, Repr

/-- The response of the bus to the last access (spec/20_memory.md R69, R75). -/
inductive BusResponse where
  /-- no access yet since the hardware reset -/
  | none
  /-- a write was answered normally, whether it took effect or was ignored -/
  | done
  /-- a read returned a word -/
  | data (w : Word)
  /-- the error response: a bus error -/
  | error
deriving DecidableEq, Repr

/-- The state. All fields but the last three are the architectural state of R20; `dmemBytes` is the implementation
parameter, and `agenda` and `resp` are the model's own. -/
structure State where
  /-- the big-integer registers `b0` to `b15` (R21) -/
  b : Vector BigReg 16
  /-- the flag `V`: the result of the last completed `VERIFY` (R26) -/
  v : Bool
  /-- the flag `BORROW` of `BNSUB` (R27) -/
  borrow : Bool
  /-- the result `CMP` of `BNCMP` (R28) -/
  cmp : Ordering
  /-- the curve context (R29) -/
  curve : CurveContext
  /-- `CRV`: the curve context holds a loaded curve (R30) -/
  crv : Bool
  /-- the AES key `KEY` (R31) -/
  key : Block
  /-- `KEYV`: the key was loaded (R31) -/
  keyv : Bool
  /-- the subkey `K1` (R32) -/
  k1 : Block
  /-- the subkey `K2` (R32) -/
  k2 : Block
  /-- `SKV`: the subkeys were derived from the current key (R32) -/
  skv : Bool
  /-- `CMD`: the last accepted command word (R36) -/
  cmd : Word
  /-- `STATUS.BUSY` (R37) -/
  busy : Bool
  /-- `STATUS.DONE` (R37) -/
  done : Bool
  /-- `STATUS.OVR` (R37) -/
  ovr : Bool
  /-- `STATUS.ERR`: the code of the last fault, `none` for 0 (R37, R220) -/
  err : Option FaultCode
  /-- `CTRL.IE` (R38) -/
  ie : Bool
  /-- `MSGADDR` (R39) -/
  msgaddr : Word
  /-- `MSGLEN` (R40) -/
  msglen : Word
  /-- `DMEM` (R42) -/
  dmem : Memory
  /-- the parameter `DMEM_BYTES` (R5), which no step changes (log 2) -/
  dmemBytes : Nat
  /-- the model's own: what happens next, the earliest first (log 4) -/
  agenda : List Event
  /-- the model's own: the response of the last bus access (log 6) -/
  resp : BusResponse
deriving DecidableEq, Repr

/-- Reasons a step can stop with a fault: none. Every fault of this hardware is a command that aborts with a code in
`STATUS.ERR`, and the block goes on (spec/60_exceptions.md R231): a next state. Safe: nothing is cut off (log 5). -/
inductive Fault where
deriving DecidableEq, Repr

/-- Reasons a step can be refused. -/
inductive Refusal where
  /-- raised by `exec` for a command that has no meaning yet, under its mnemonic. Every command has its meaning, so no arm
  raises it. Safe: the model stops where the block goes on. -/
  | notModelled (mnemonic : String)
deriving DecidableEq, Repr

/-- What a step or a command answers. -/
abbrev Outcome := Host.Outcome State Fault Refusal

/-- The block right after a hardware reset, with `dmemBytes` bytes of `DMEM` that hold `dmem` (R46, R251). -/
def State.powerOn (dmemBytes : Nat) (dmem : Memory) : State where
  b := Vector.replicate 16 .empty
  v := false
  borrow := false
  cmp := .eq
  curve := .zero
  crv := false
  key := 0
  keyv := false
  k1 := 0
  k2 := 0
  skv := false
  cmd := 0
  busy := false
  done := false
  ovr := false
  err := none
  ie := false
  msgaddr := 0
  msglen := 0
  dmem := dmem
  dmemBytes := dmemBytes
  agenda := []
  resp := .none

/-- The machine right after reset (R46), with nothing listed in `DMEM` and nothing on the agenda. DESIGN CHOICE: the size
(log 2) and the content of `DMEM` (log 1), the empty agenda (log 4). -/
def State.reset : State := State.powerOn Config.dmemBytesAtReset []

end Sys2Proof.Machine
end

