-- ==== Sys2Proof/Machine/Ops.lean ====
section
/-!
DEFINITION. The named operations over the state: the operand memory, writing registers, ending a command with or without a
fault, the host's acknowledge, issuing a command, and the two resets.
-/

namespace Sys2Proof.Machine

/-! ### The operand memory -/

/-- What a `DMEM` byte that nothing has written reads as. The spec leaves the content after a hardware reset open (R46:
"every byte may hold any value"). DESIGN CHOICE, unsafe (log 1). -/
def Memory.unlisted : Byte := 0

/-- One byte of memory. -/
def Memory.read : Memory → Nat → Byte
  | [], _ => Memory.unlisted
  | (a', x) :: m, a => if a = a' then x else Memory.read m a

/-- Storing one byte. The canonical form is kept: storing what an unlisted address reads as removes the entry. -/
def Memory.write : Memory → Nat → Byte → Memory
  | [], a, x => if x = Memory.unlisted then [] else [(a, x)]
  | (a', x') :: m, a, x =>
    if a < a' then (if x = Memory.unlisted then (a', x') :: m else (a, x) :: (a', x') :: m)
    else if a = a' then (if x = Memory.unlisted then m else (a, x) :: m)
    else (a', x') :: Memory.write m a x

/-- The canonical form: addresses strictly rising, no entry equal to what an unlisted address reads as. -/
abbrev Memory.wf (m : Memory) : Prop :=
  m.Pairwise (fun c d => c.1 < d.1) ∧ ∀ c ∈ m, c.2 ≠ Memory.unlisted

/-- The `n` bytes from offset `a` on, in address order. -/
def Memory.readBytes (m : Memory) (a n : Nat) : List Byte := (List.range n).map fun i => m.read (a + i)

/-- Storing a byte string from offset `a` on, its first byte at `a`. -/
def Memory.writeBytes (m : Memory) (a : Nat) : List Byte → Memory
  | [] => m
  | x :: l => Memory.writeBytes (m.write a x) (a + 1) l

/-- The memory of `n` bytes that holds the listed cells, later ones winning, in canonical form. -/
def Memory.ofCells (n : Nat) (cells : List Host.Cell) : Memory :=
  cells.foldl (fun m c => if c.1 < n then m.write c.1 c.2 else m) []

/-- The range check of R66 in unbounded integers: no wrap. -/
def State.checkRange (s : State) (addr n : Nat) : Except FaultCode Unit :=
  if addr + n ≤ s.dmemBytes then .ok () else .error .addressRange

/-- `MemRead(addr, n)` (R8, R66). -/
def State.memRead (s : State) (addr n : Nat) : Except FaultCode (List Byte) := do
  s.checkRange addr n
  return s.dmem.readBytes addr n

/-- The state with a byte string stored in `DMEM`. -/
def State.storeBytes (s : State) (addr : Nat) (l : List Byte) : State :=
  { s with dmem := s.dmem.writeBytes addr l }

/-- `MemWrite(addr, n, v)` with `n` the length of `v` (R8, R66). -/
def State.memWrite (s : State) (addr : Nat) (l : List Byte) : Except FaultCode State := do
  s.checkRange addr l.length
  return s.storeBytes addr l

/-! ### Registers -/

/-- `b[i] <- v`: both value and tag are replaced (R22). -/
def State.setReg (s : State) (i : Reg) (r : BigReg) : State := { s with b := s.b.set i.val r i.isLt }

/-- `P(k) <- (X, Y)`: both registers of the pair get tag 20 (R23, R167). -/
def State.setPair (s : State) (k : Reg) (p : Point) : State :=
  (s.setReg k (.val .w20 p.x)).setReg (k + 1) (.val .w20 p.y)

/-! ### Ending a command: completion, fault entry, acknowledge -/

/-- Completion without fault: `BUSY <- 0`, `DONE <- 1` (R106). -/
def State.retire (s : State) : State := { s with busy := false, done := true }

/-- Fault entry (R231): none of the command's writes happens, `ERR` takes the code, `BUSY <- 0`, `DONE <- 1`. Nothing is
saved and control goes nowhere: there is no program counter, handler or mode. -/
def State.raise (s : State) (c : FaultCode) : State := { s with err := some c, busy := false, done := true }

/-- The end of a command that began in `s` (R106): all its writes at once, or the fault. -/
def State.finish (s : State) (r : Except FaultCode State) : Outcome :=
  .next (match r with
    | .ok t => t.retire
    | .error c => s.raise c)

/-- The acknowledge, the analogue of a return from an exception (R233, R37): a write of 1 to `STATUS.DONE` clears `DONE`
and `ERR` while `BUSY = 0`, and has nothing to do while `BUSY = 1`. -/
def State.acknowledge (s : State) : State := if s.busy then s else { s with done := false, err := none }

/-! ### Issuing a command -/

/-- An ignored host write sets `OVR` and does nothing else (R69). -/
def State.overrun (s : State) : State := { s with ovr := true }

/-- The opcode field of a command word, bits 31:24 (R90). -/
def opcodeOf (w : Word) : Byte := w.extractLsb' 24 8

/-- Acceptance of a command word (R106): `CMD` takes it, `BUSY <- 1`, `DONE <- 0`, and for `VERIFY`, opcode `0x30`,
`V <- 0`. -/
def State.accept (s : State) (w : Word) : State :=
  { s with cmd := w, busy := true, done := false, v := if opcodeOf w = 0x30 then false else s.v }

/-- A host write of a word to `CMD` (R106): accepted, or ignored while busy or in fault stop (R232). -/
def State.issue (s : State) (w : Word) : State :=
  if s.busy || s.err.isSome then s.overrun else s.accept w

/-! ### Resets -/

/-- The soft reset (R252): the state of R251, but `DMEM` keeps its content. A running command is abandoned (R250). -/
def State.softReset (s : State) : State :=
  { State.powerOn s.dmemBytes s.dmem with agenda := s.agenda, resp := s.resp }

/-- The hardware reset (R250, R251) with the given content of `DMEM`. -/
def State.hardReset (s : State) (content : List Host.Cell) : State :=
  { State.powerOn s.dmemBytes (Memory.ofCells s.dmemBytes content) with agenda := s.agenda }

end Sys2Proof.Machine
end

