-- ==== Sys2Proof/Machine/Flags.lean ====
section
/-!
DEFINITION. The flags as software sees them: the codes of `CMP` and `ERR`, the registers `STATUS` and `CTRL` as words, and
the interrupt line (spec/10_state.md R28, R37, R38; spec/60_exceptions.md R220, R236). What a command writes to a flag
stands in its meaning: `CMP` by `BNCMP`, `BORROW` by `BNSUB`, `V` by `VERIFY`; no other command writes one (R28).
-/

namespace Sys2Proof.Machine

/-- `CMP` as a 2-bit two's-complement number (R28). -/
def cmpBits : Ordering → BitVec 2
  | .eq => 0b00
  | .gt => 0b01
  | .lt => 0b11

/-- The number of a fault code (R220). -/
def FaultCode.code : FaultCode → Byte
  | .invalidLength => 0x01
  | .invalidKeyLength => 0x02
  | .invalidSignatureInput => 0x03
  | .primeModulusRequired => 0x04
  | .illegalCommand => 0x10
  | .addressRange => 0x11
  | .curveNotLoaded => 0x12
  | .keyNotLoaded => 0x13
  | .shortMessage => 0x14

/-- `STATUS.ERR` as a number, 0 for no fault (R37, R220). -/
def errCode : Option FaultCode → Byte
  | none => 0x00
  | some c => c.code

/-- A one-bit field at bit `k` of a word. -/
def bitField (x : Bool) (k : Nat) : Word := if x then 1#32 <<< k else 0

/-- `STATUS` as the host reads it (R37): reserved bits read 0. -/
def State.statusWord (s : State) : Word :=
  bitField s.busy 0 ||| bitField s.done 1 ||| bitField s.ovr 2 ||| bitField s.v 3 ||| bitField s.borrow 4
    ||| ((cmpBits s.cmp).setWidth 32 <<< 5)
    ||| bitField s.crv 8 ||| bitField s.keyv 9 ||| bitField s.skv 10
    ||| ((errCode s.err).setWidth 32 <<< 16)

/-- `CTRL` as the host reads it (R38): `IE` in bit 0, `SRST` and the rest read 0. -/
def State.ctrlWord (s : State) : Word := bitField s.ie 0

/-- The interrupt line (R236): level-sensitive, `DONE and IE`. -/
def State.irq (s : State) : Bool := s.done && s.ie

end Sys2Proof.Machine
end

