-- ==== Sys2Proof/Machine/Bus.lean ====
section
/-!
DEFINITION. The host bus interface: the bus map, what a read returns and what a write does (spec/20_memory.md R60 to R75,
spec/10_state.md R34 to R41). Host accesses are served at any time, busy or not (R69).
-/

namespace Sys2Proof.Machine

/-- What a word-aligned offset of the window names (R61). -/
inductive BusTarget where
  /-- `ID`, offset 0x00 -/
  | id
  /-- `CMD`, offset 0x04 -/
  | cmd
  /-- `STATUS`, offset 0x08 -/
  | status
  /-- `CTRL`, offset 0x0C -/
  | ctrl
  /-- `MSGADDR`, offset 0x10 -/
  | msgaddr
  /-- `MSGLEN`, offset 0x14 -/
  | msglen
  /-- offsets 0x18 and 0x1C (R41) -/
  | reserved
  /-- a `DMEM` word, by its `DMEM` offset -/
  | dmem (a : Nat)
  /-- nothing: a bus error -/
  | unmapped
deriving DecidableEq, Repr

/-- The bus map (R61, R34) of a block with `dmemBytes` bytes of `DMEM`. -/
def busMap (dmemBytes : Nat) (offset : Nat) : BusTarget :=
  if offset = 0x00 then .id
  else if offset = 0x04 then .cmd
  else if offset = 0x08 then .status
  else if offset = 0x0C then .ctrl
  else if offset = 0x10 then .msgaddr
  else if offset = 0x14 then .msglen
  else if offset = 0x18 ∨ offset = 0x1C then .reserved
  else if 0x10000 ≤ offset ∧ offset < 0x10000 + dmemBytes then .dmem (offset - 0x10000)
  else .unmapped

/-- What an access addresses: only whole words at offsets that are multiples of 4 address anything (R62). -/
def State.busTarget (s : State) (size : AccessSize) (offset : BitVec 17) : BusTarget :=
  if size = .word ∧ offset.toNat % 4 = 0 then busMap s.dmemBytes offset.toNat else .unmapped

/-- The word a read of a target returns, `none` for a bus error (R34, R63). -/
def State.wordAt (s : State) : BusTarget → Option Word
  | .id => some Config.idValue
  | .cmd => some s.cmd
  | .status => some s.statusWord
  | .ctrl => some s.ctrlWord
  | .msgaddr => some s.msgaddr
  | .msglen => some s.msglen
  | .reserved => some 0
  | .dmem a => some (ofBytes 4 (s.dmem.readBytes a 4))
  | .unmapped => none

/-- A write that is ignored with `OVR` while the block is busy (R69). -/
def State.unlessBusy (s t : State) : State := if s.busy then s.overrun else t

/-- The write-1-to-clear bits of `STATUS` (R37): bit 2 clears `OVR` at any time, bit 1 acknowledges. -/
def State.writeStatus (s : State) (w : Word) : State :=
  let s := if w.getLsbD 2 then { s with ovr := false } else s
  if w.getLsbD 1 then s.acknowledge else s

/-- A write of `CTRL` (R38): bit 31 makes it a soft reset and the other bits are discarded, else `IE` takes bit 0. -/
def State.writeCtrl (s : State) (w : Word) : State :=
  if w.getLsbD 31 then s.softReset else { s with ie := w.getLsbD 0 }

/-- What a write of a word to a target does to the block (R34, R68, R69). -/
def State.writeAt (s : State) (w : Word) : BusTarget → State
  | .id => s
  | .cmd => s.issue w
  | .status => s.writeStatus w
  | .ctrl => s.writeCtrl w
  | .msgaddr => s.unlessBusy { s with msgaddr := w }
  | .msglen => s.unlessBusy { s with msglen := w }
  | .reserved => s
  | .dmem a => s.unlessBusy (s.storeBytes a (toBytes (n := 4) w))
  | .unmapped => s

/-- A host read: no state changes (R67); the response carries the word or the bus error (R75). -/
def State.hostRead (s : State) (size : AccessSize) (offset : BitVec 17) : State :=
  match s.wordAt (s.busTarget size offset) with
  | some w => { s with resp := .data w }
  | none => { s with resp := .error }

/-- A host write: an access the map does not allow gets a bus error and changes nothing (R75); an ignored write gets a
normal response (R69). -/
def State.hostWrite (s : State) (size : AccessSize) (offset : BitVec 17) (w : Word) : State :=
  match s.busTarget size offset with
  | .unmapped => { s with resp := .error }
  | t => { s.writeAt w t with resp := .done }

end Sys2Proof.Machine
end

