-- ==== Sys2Proof/Machine/BigIntEngine.lean ====
section
/-!
DEFINITION. The pure functions of the big-integer engine (spec/41_bigint.md), on `n`-byte unsigned big-endian integers.
Numbers are computed exactly and narrowed where they are stored. Where the spec gives a byte-serial form and says that it
equals the closed form, the closed form stands as the definition (log 10).
-/

namespace Sys2Proof.Machine

/-- Row `r` of the inverse table as the spec prints it, entries `16r` to `16r + 15` (spec/10_state.md R33). -/
def invRow : Nat → Big 16
  | 0 => 0xFF553349C75D3B110FE5C359D7EDCB21
  | 1 => 0x1F755369E77D5B312F05E379F70DEB41
  | 2 => 0x3F957389079D7B514F250399172D0B61
  | 3 => 0x5FB593A927BD9B716F4523B9374D2B81
  | 4 => 0x7FD5B3C947DDBB918F6543D9576D4BA1
  | 5 => 0x9FF5D3E967FDDBB1AF8563F9778D6BC1
  | 6 => 0xBF15F309871DFBD1CFA5831997AD8BE1
  | _ => 0xDF351329A73D1BF1EFC5A339B7CDAB01

/-- `INV[i]`, `i` in 0..127 (R33): the byte with `(INV[i] * (2i + 1) + 1) mod 256 = 0` (`invEntry_spec`). -/
def invEntry (i : Nat) : Byte := byteAt (invRow (i / 16)) (i % 16)

/-- `add_raw` (R132): the sum modulo `2^(8n)` and the carry, 0 or 1. -/
def addRaw {n : Nat} (a b : Big n) : Big n × Nat :=
  (BitVec.ofNat (8 * n) (a.toNat + b.toNat), (a.toNat + b.toNat) / 2 ^ (8 * n))

/-- `sub_raw` (R132): the difference modulo `2^(8n)` and the borrow. -/
def subRaw {n : Nat} (a b : Big n) : Big n × Bool :=
  if b.toNat ≤ a.toNat then (BitVec.ofNat (8 * n) (a.toNat - b.toNat), false)
  else (BitVec.ofNat (8 * n) (a.toNat + 2 ^ (8 * n) - b.toNat), true)

/-- `bn_cmp` (R130): the sign of `val(a) - val(b)`. -/
def bnCmp {n : Nat} (a b : Big n) : Ordering := compare a.toNat b.toNat

/-- `bn_red` (R135): one conditional subtraction of the modulus. -/
def bnRed {n : Nat} (d N : Big n) : Big n := if (bnCmp d N).isGE then (subRaw d N).1 else d

/-- `bn_add` (R131): after a carry subtract `N` once, then once more if the sum is not below `N`. -/
def bnAdd {n : Nat} (a b N : Big n) : Big n :=
  let (d, c) := addRaw a b
  bnRed (if c ≠ 0 then (subRaw d N).1 else d) N

/-- `bn_subm` (R134): raw subtraction, `N` added back after a borrow. -/
def bnSubm {n : Nat} (a b N : Big n) : Big n :=
  let (d, br) := subRaw a b
  if br then (addRaw d N).1 else d

/-- `bn_to_mon` (R136): `8n` modular doublings. -/
def bnToMon {n : Nat} (a N : Big n) : Big n := iterate (fun _ d => bnAdd d d N) (8 * n) 0 a

/-- `mon_digit` (R138): one digit step of the multiplier on the accumulator `d`, for the multiplier byte `bj`. -/
def monDigit {n : Nat} (d a : Big n) (bj : Byte) (N : Big n) : Big n :=
  let t0 := ((byteAt d (n - 1)).toNat + (byteAt a (n - 1)).toNat * bj.toNat) % 256
  let z := t0 * (invEntry ((byteAt N (n - 1)).toNat / 2)).toNat % 256
  let t := d.toNat + a.toNat * bj.toNat + N.toNat * z
  let t' := t / 256
  let dig := t' / 2 ^ (8 * n)
  let d' : Big n := BitVec.ofNat (8 * n) t'
  bnRed (if dig ≠ 0 then (subRaw d' N).1 else d') N

/-- `mon_mul` (R139): the accumulator starts at zero and takes `b`'s bytes from the least significant on; pass `i` takes
`b[n - 1 - i]`. -/
def monMul {n : Nat} (a b N : Big n) : Big n :=
  iterate (fun i d => monDigit d a (byteAt b (n - 1 - i)) N) n 0 0

/-- `bn_from_mon` (R137): one Montgomery multiplication by the constant 1. -/
def bnFromMon {n : Nat} (a N : Big n) : Big n := monMul a 1 N

/-- One pass of `mon_exp` (R140): square, then multiply if the exponent bit is 1. -/
def monExpStep {n : Nat} (a N : Big n) (bit : Bool) (d : Big n) : Big n :=
  strictly (monMul d d N) fun q => if bit then monMul q a N else q

/-- `mon_exp` (R140): left-to-right binary exponentiation from Montgomery-1 over all bits of `e`, most significant first,
whatever the length of `e`. -/
def monExp {n m : Nat} (a : Big n) (e : Big m) (N : Big n) : Big n :=
  iterate (fun t d => monExpStep a N (e.getMsbD t) d) (8 * m) 0 (bnToMon 1 N)

/-- `mon_inv` (R141): the exponent is `N - 2` in `n` bytes, the borrow discarded. -/
def monInv {n : Nat} (a N : Big n) : Big n := monExp a (subRaw N 2).1 N

end Sys2Proof.Machine
end

