-- ==== Sys2Proof/Machine/Operands.lean ====
section
/-!
DEFINITION. Reading operands: every operand form of the commands, with the check and the fault the spec gives it
(spec/10_state.md R22, R23; spec/41_bigint.md R142; spec/42_curve.md R167).
-/

namespace Sys2Proof.Machine

/-- The value of a register that has tag `w`, if it has. -/
def BigReg.read : (w : Width) → BigReg → Option (Big w.bytes)
  | .w20, .val .w20 x => some x
  | .w21, .val .w21 x => some x
  | _, _ => none

/-- The tag of a register, nothing for `EMPTY` (spec/10_state.md R21). -/
def BigReg.tag? : BigReg → Option Width
  | .empty => none
  | .val w _ => some w

/-- The byte string of a register at its own length; nothing for `EMPTY`. -/
def BigReg.bytes? : BigReg → Option (List Byte)
  | .empty => none
  | .val _ x => some (toBytes x)

/-- An integer together with its own length, 20 or 21 bytes: an exponent or a scalar (R140, R166). -/
abbrev Scalar := Σ w : Width, Big w.bytes

/-- The value of a register together with its tag; nothing for `EMPTY`. -/
def BigReg.scalar? : BigReg → Option Scalar
  | .empty => none
  | .val w x => some ⟨w, x⟩

/-- A value, or the given fault when there is none. -/
def orFault {α : Type} (c : FaultCode) : Option α → Except FaultCode α
  | some x => .ok x
  | none => .error c

/-- A check that a command makes: the given fault when it fails (R230). -/
def require (ok : Bool) (c : FaultCode) : Except FaultCode Unit := if ok then .ok () else .error c

/-- Reading register `r` as a `w`-byte operand; a tag that does not match gives the fault `c`, `InvalidLength` everywhere
but in `VERIFY` (R22). -/
def State.operand (s : State) (c : FaultCode) (w : Width) (r : Reg) : Except FaultCode (Big w.bytes) :=
  orFault c (BigReg.read w (s.b.get r))

/-- Reading register `r` as a 20-byte operand (R23, R123, R180). -/
def State.operand20 (s : State) (c : FaultCode) (r : Reg) : Except FaultCode (Big 20) := s.operand c .w20 r

/-- Reading a register at its own length as a byte string (`ST`, R121). -/
def State.operandBytes (s : State) (r : Reg) : Except FaultCode (List Byte) :=
  orFault .invalidLength (BigReg.bytes? (s.b.get r))

/-- Reading a register at its own length as an integer: the exponent of `BNMONEXP`, the scalar of `PMUL` (R140, R166). -/
def State.operandScalar (s : State) (r : Reg) : Except FaultCode Scalar :=
  orFault .invalidLength (BigReg.scalar? (s.b.get r))

/-- Reading the point `P(k)`: both registers of the pair must have tag 20 (R23). -/
def State.operandPoint (s : State) (c : FaultCode) (k : Reg) : Except FaultCode Point := do
  let x ← s.operand20 c k
  let y ← s.operand20 c (k + 1)
  return ⟨x, y⟩

/-- The curve context, for a command that reads it (R227). -/
def State.operandCurve (s : State) : Except FaultCode CurveContext := do
  require s.crv .curveNotLoaded
  return s.curve

/-- The AES key, for a command that reads it (R228). -/
def State.operandKey (s : State) : Except FaultCode Block := do
  require s.keyv .keyNotLoaded
  return s.key

/-- The subkeys, for the command that stores them (R228). -/
def State.operandSubkeys (s : State) : Except FaultCode (Block × Block) := do
  require s.skv .keyNotLoaded
  return (s.k1, s.k2)

/-- The check of point fields (R101): an odd one is an illegal command. A decoded command always passes it. -/
def requirePairs (fields : List Reg) : Except FaultCode Unit := require (fields.all Reg.isEven) .illegalCommand

end Sys2Proof.Machine
end

