-- ==== Sys2Proof/Machine/BigInt.lean ====
section
/-!
DEFINITION. The big-integer commands (spec/41_bigint.md). Every operand register must have the tag of the command's width,
else `InvalidLength`; all sources are read before the destination is written (R142, R145).
-/

namespace Sys2Proof.Machine

/-- `BNCMP.w ra, rb` (R130): writes `CMP` only. -/
def execBncmp (ra rb : Reg) (w : Width) (s : State) : Outcome :=
  s.finish do
    let a ← s.operand .invalidLength w ra
    let b ← s.operand .invalidLength w rb
    return { s with cmp := bnCmp a b }

/-- `BNADD.w rd, ra, rb, rn` (R131). -/
def execBnadd (rd ra rb rn : Reg) (w : Width) (s : State) : Outcome :=
  s.finish do
    let a ← s.operand .invalidLength w ra
    let b ← s.operand .invalidLength w rb
    let n ← s.operand .invalidLength w rn
    return s.setReg rd (.val w (bnAdd a b n))

/-- `BNSUB.w rd, ra, rb` (R133): the only command that writes `BORROW`. -/
def execBnsub (rd ra rb : Reg) (w : Width) (s : State) : Outcome :=
  s.finish do
    let a ← s.operand .invalidLength w ra
    let b ← s.operand .invalidLength w rb
    let (d, br) := subRaw a b
    return { s.setReg rd (.val w d) with borrow := br }

/-- `BNSUBM.w rd, ra, rb, rn` (R134). -/
def execBnsubm (rd ra rb rn : Reg) (w : Width) (s : State) : Outcome :=
  s.finish do
    let a ← s.operand .invalidLength w ra
    let b ← s.operand .invalidLength w rb
    let n ← s.operand .invalidLength w rn
    return s.setReg rd (.val w (bnSubm a b n))

/-- `BNRED.w rd, ra, rn` (R135). -/
def execBnred (rd ra rn : Reg) (w : Width) (s : State) : Outcome :=
  s.finish do
    let a ← s.operand .invalidLength w ra
    let n ← s.operand .invalidLength w rn
    return s.setReg rd (.val w (bnRed a n))

/-- `BNTOMON.w rd, ra, rn` (R136). -/
def execBntomon (rd ra rn : Reg) (w : Width) (s : State) : Outcome :=
  s.finish do
    let a ← s.operand .invalidLength w ra
    let n ← s.operand .invalidLength w rn
    return s.setReg rd (.val w (bnToMon a n))

/-- `BNFROMMON.w rd, ra, rn` (R137). -/
def execBnfrommon (rd ra rn : Reg) (w : Width) (s : State) : Outcome :=
  s.finish do
    let a ← s.operand .invalidLength w ra
    let n ← s.operand .invalidLength w rn
    return s.setReg rd (.val w (bnFromMon a n))

/-- `BNMONMUL.w rd, ra, rb, rn` (R139). -/
def execBnmonmul (rd ra rb rn : Reg) (w : Width) (s : State) : Outcome :=
  s.finish do
    let a ← s.operand .invalidLength w ra
    let b ← s.operand .invalidLength w rb
    let n ← s.operand .invalidLength w rn
    return s.setReg rd (.val w (monMul a b n))

/-- `BNMONEXP.w rd, ra, rb, rn` (R140): the exponent `rb` has its own length, whatever `W` is. -/
def execBnmonexp (rd ra rb rn : Reg) (w : Width) (s : State) : Outcome :=
  s.finish do
    let a ← s.operand .invalidLength w ra
    let ⟨_, e⟩ ← s.operandScalar rb
    let n ← s.operand .invalidLength w rn
    return s.setReg rd (.val w (monExp a e n))

/-- `BNMONINV.w rd, ra, rn` (R141): primality of the modulus is not checked. -/
def execBnmoninv (rd ra rn : Reg) (w : Width) (s : State) : Outcome :=
  s.finish do
    let a ← s.operand .invalidLength w ra
    let n ← s.operand .invalidLength w rn
    return s.setReg rd (.val w (monInv a n))

end Sys2Proof.Machine
end

