-- ==== Sys2Proof/Machine/CmacEngine.lean ====
section
/-!
DEFINITION. The pure functions of the CMAC core (spec/44_cmac.md). The block cipher is the external primitive
`Config.aes128Enc`.
-/

namespace Sys2Proof.Machine

/-- The 16-byte block of a byte string. -/
def blockOf (l : List Byte) : Block := ofBytes 16 l

/-- The byte string of a block. -/
def blockBytes (x : Block) : List Byte := toBytes (n := 16) x

/-- `dbl128` (R192): a left shift by one bit, and `0x87` into the last byte if the bit shifted out was 1. -/
def dbl128 (x : Block) : Block := if x.msb then (x <<< 1) ^^^ 0x87#128 else x <<< 1

/-- `subkeys` (R193): `(K1, K2)`. -/
def subkeys (key : Block) : Block × Block :=
  let l := Config.aes128Enc key 0
  let k1 := dbl128 l
  let k2 := dbl128 k1
  (k1, k2)

/-- A message padded with `0x80` and zero bytes up to the next multiple of 16 (R195). -/
def padMessage (msg : List Byte) : List Byte := msg ++ 0x80 :: List.replicate (15 - msg.length % 16) 0x00

/-- `m` with `kk` folded into its last block (R195). -/
def xorLastBlock (m : List Byte) (kk : Block) : List Byte :=
  m.take (m.length - 16) ++ blockBytes (blockOf (lastBytes 16 m) ^^^ kk)

/-- `prepare` (R195). -/
def prepare (msg : List Byte) (k1 k2 : Block) : List Byte :=
  if msg.length ≠ 0 ∧ msg.length % 16 = 0 then xorLastBlock msg k1 else xorLastBlock (padMessage msg) k2

/-- The 16-byte blocks of a byte string whose length is a multiple of 16. -/
def blocksOf (m : List Byte) : List Block :=
  (List.range (m.length / 16)).map fun k => blockOf (slice m (16 * k) (16 * k + 16))

/-- The ciphertext chain that follows the block `prev` (R196). -/
def cbcFrom (key prev : Block) : List Block → List Block
  | [] => []
  | x :: l =>
    let c := Config.aes128Enc key (x ^^^ prev)
    c :: cbcFrom key c l

/-- `cbc` (R196): the chain from the zero IV, as one byte string. -/
def cbc (key : Block) (m : List Byte) : List Byte := (cbcFrom key 0 (blocksOf m)).flatMap blockBytes

/-- The whole ciphertext chain of a message under a key, of which a MAC is the end (R196). -/
def cmacChain (key : Block) (msg : List Byte) : List Byte :=
  let (k1, k2) := subkeys key
  cbc key (prepare msg k1 k2)

/-- `mac16` (R196). -/
def mac16 (key : Block) (msg : List Byte) : List Byte := lastBytes 16 (cmacChain key msg)

/-- `mac20` (R196); it needs a chain of at least two blocks, which `CMAC20` checks (R198). -/
def mac20 (key : Block) (msg : List Byte) : List Byte := lastBytes 20 (cmacChain key msg)

end Sys2Proof.Machine
end

