-- ==== Sys2Proof/Machine/Cmac.lean ====
section
/-!
DEFINITION. The CMAC commands (spec/44_cmac.md).
-/

namespace Sys2Proof.Machine

/-- The state with the subkeys of the current key derived: `(K1, K2) <- subkeys(KEY)`, `SKV <- 1` (R191, R197). -/
def State.deriveSubkeys (s : State) (key : Block) : State :=
  { s with k1 := (subkeys key).1, k2 := (subkeys key).2, skv := true }

/-- `KEYLD len, addr` (R190): the length is checked before the range; `SKV` is cleared, `K1` and `K2` keep their bytes. -/
def execKeyld (len : BitVec 8) (addr : BitVec 16) (s : State) : Outcome :=
  s.finish do
    require (len = 16) .invalidKeyLength
    let l ← s.memRead addr.toNat 16
    return { s with key := blockOf l, keyv := true, skv := false }

/-- `SUBKEY` (R191). -/
def execSubkey (s : State) : Outcome :=
  s.finish do
    let key ← s.operandKey
    return s.deriveSubkeys key

/-- `SKST addr` (R194): stores `K1 ‖ K2`. -/
def execSkst (addr : BitVec 16) (s : State) : Outcome :=
  s.finish do
    let (k1, k2) ← s.operandSubkeys
    s.memWrite addr.toNat (blockBytes k1 ++ blockBytes k2)

/-- `CMAC16 addr` (R197): the message is read first, then the 16-byte MAC is written. -/
def execCmac16 (addr : BitVec 16) (s : State) : Outcome :=
  s.finish do
    let key ← s.operandKey
    let msg ← s.memRead s.msgaddr.toNat s.msglen.toNat
    s.checkRange addr.toNat 16
    return (s.deriveSubkeys key).storeBytes addr.toNat (mac16 key msg)

/-- `CMAC20 addr` (R198): as `CMAC16` with 20 bytes; a message of at most 16 bytes faults, after the range checks (R230). -/
def execCmac20 (addr : BitVec 16) (s : State) : Outcome :=
  s.finish do
    let key ← s.operandKey
    let msg ← s.memRead s.msgaddr.toNat s.msglen.toNat
    s.checkRange addr.toNat 20
    require (16 < s.msglen.toNat) .shortMessage
    return (s.deriveSubkeys key).storeBytes addr.toNat (mac20 key msg)

end Sys2Proof.Machine
end

