-- ==== Sys2Proof/Machine/CurveField.lean ====
section
/-!
DEFINITION. The pure functions of the curve unit (spec/42_curve.md): short-Weierstrass point arithmetic on 20-byte
coordinates modulo `p`.
-/

namespace Sys2Proof.Machine

/-- The sentinel of the point at infinity: the all-zero pair, in both forms (R168). -/
def Point.inf : Point := ⟨0, 0⟩

/-- `p_to_mon` (R162): both coordinates into Montgomery form. -/
def pToMon (p : Big 20) (P : Point) : Point := ⟨bnToMon P.x p, bnToMon P.y p⟩

/-- `p_from_mon` (R163): both coordinates out of Montgomery form. -/
def pFromMon (p : Big 20) (P : Point) : Point := ⟨bnFromMon P.x p, bnFromMon P.y p⟩

/-- `p_dbl` (R164), on the curve with modulus `p` and coefficient `ca` in Montgomery form. -/
def pDbl (p ca : Big 20) (P : Point) : Point :=
  if P.y = 0 then Point.inf
  else
    let t := monMul P.x P.x p
    let s := bnAdd t t p
    let s := bnAdd s t p
    let s := bnAdd s ca p
    let t := bnAdd P.y P.y p
    let t := monInv t p
    let s := monMul s t p
    let rx := monMul s s p
    let t := bnAdd P.x P.x p
    let rx := bnSubm rx t p
    let t := bnSubm P.x rx p
    let ry := monMul s t p
    let ry := bnSubm ry P.y p
    ⟨rx, ry⟩

/-- `p_add` (R165). -/
def pAdd (p ca : Big 20) (P Q : Point) : Point :=
  if P = Point.inf then Q
  else if Q = Point.inf then P
  else
    let u := bnSubm Q.x P.x p
    if u = 0 then
      let v := bnSubm Q.y P.y p
      if v = 0 then pDbl p ca P else Point.inf
    else
      let t := monInv u p
      let v := bnSubm Q.y P.y p
      let s := monMul v t p
      let rx := monMul s s p
      let t := bnAdd P.x Q.x p
      let rx := bnSubm rx t p
      let t := bnSubm P.x rx p
      let ry := monMul s t p
      let ry := bnSubm ry P.y p
      ⟨rx, ry⟩

/-- One pass of `p_mul` (R166): double, then add if the scalar bit is 1. -/
def pMulStep (p ca : Big 20) (P : Point) (bit : Bool) (d : Point) : Point :=
  let e := pDbl p ca d
  if bit then pAdd p ca e P else e

/-- The passes of `p_mul` for the scalar bits `t` to `t + count - 1`, most significant first (spec/00_scope.md R7); the
running point is computed to numerals in each pass (`strictly`, log 11). -/
def pMulFrom {m : Nat} (p ca : Big 20) (k : Big m) (P : Point) : (count t : Nat) → Point → Point
  | 0, _, d => d
  | count + 1, t, d =>
    let e := pMulStep p ca P (k.getMsbD t) d
    strictly e.x fun x => strictly e.y fun y => pMulFrom p ca k P count (t + 1) ⟨x, y⟩

/-- `p_mul` (R166): double-and-add from the point at infinity over all bits of the scalar, whatever its length. -/
def pMul {m : Nat} (p ca : Big 20) (k : Big m) (P : Point) : Point := pMulFrom p ca k P (8 * m) 0 Point.inf

/-- The curve context that `CRVLD` makes of a 120-byte parameter block (R160; spec/20_memory.md R76). -/
def curveOfBlock (blk : List Byte) : CurveContext :=
  let p := ofBytes 20 (slice blk 0 20)
  let a := ofBytes 20 (slice blk 20 40)
  let b := ofBytes 20 (slice blk 40 60)
  let nOrd := ofBytes 20 (slice blk 60 80)
  let gx := ofBytes 20 (slice blk 80 100)
  let gy := ofBytes 20 (slice blk 100 120)
  { cp := p, cn := nOrd, ca := bnToMon a p, cb := bnToMon b p, cgx := bnToMon gx p, cgy := bnToMon gy p }

/-- The 120-byte dump of the curve context that `CRVST` stores (R161; spec/20_memory.md R76). -/
def CurveContext.dump (c : CurveContext) : List Byte :=
  toBytes c.cp ++ toBytes c.ca ++ toBytes c.cb ++ toBytes c.cn ++ toBytes c.cgx ++ toBytes c.cgy

end Sys2Proof.Machine
end

