-- ==== Sys2Proof/Machine/Curve.lean ====
section
/-!
DEFINITION. The curve context and point commands (spec/42_curve.md). Checks of the point commands in order (R167): point
fields even, curve loaded, register tags.
-/

namespace Sys2Proof.Machine

/-- `CRVLD addr` (R160): the whole context is replaced; nothing about the parameters is validated. -/
def execCrvld (addr : BitVec 16) (s : State) : Outcome :=
  s.finish do
    let blk ← s.memRead addr.toNat 120
    return { s with curve := curveOfBlock blk, crv := true }

/-- `CRVST addr` (R161). -/
def execCrvst (addr : BitVec 16) (s : State) : Outcome :=
  s.finish do
    let c ← s.operandCurve
    s.memWrite addr.toNat c.dump

/-- `PTOMON pd, pa` (R162). -/
def execPtomon (rd ra : Reg) (s : State) : Outcome :=
  s.finish do
    requirePairs [rd, ra]
    let c ← s.operandCurve
    let P ← s.operandPoint .invalidLength ra
    return s.setPair rd (pToMon c.cp P)

/-- `PFROMMON pd, pa` (R163). -/
def execPfrommon (rd ra : Reg) (s : State) : Outcome :=
  s.finish do
    requirePairs [rd, ra]
    let c ← s.operandCurve
    let P ← s.operandPoint .invalidLength ra
    return s.setPair rd (pFromMon c.cp P)

/-- `PDBL pd, pa` (R164). -/
def execPdbl (rd ra : Reg) (s : State) : Outcome :=
  s.finish do
    requirePairs [rd, ra]
    let c ← s.operandCurve
    let P ← s.operandPoint .invalidLength ra
    return s.setPair rd (pDbl c.cp c.ca P)

/-- `PADD pd, pa, pb` (R165). -/
def execPadd (rd ra rb : Reg) (s : State) : Outcome :=
  s.finish do
    requirePairs [rd, ra, rb]
    let c ← s.operandCurve
    let P ← s.operandPoint .invalidLength ra
    let Q ← s.operandPoint .invalidLength rb
    return s.setPair rd (pAdd c.cp c.ca P Q)

/-- `PMUL pd, pa, rk` (R166): the scalar `rb` is one register, of tag 20 or 21, with any number. -/
def execPmul (rd ra rb : Reg) (s : State) : Outcome :=
  s.finish do
    requirePairs [rd, ra]
    let c ← s.operandCurve
    let P ← s.operandPoint .invalidLength ra
    let ⟨_, k⟩ ← s.operandScalar rb
    return s.setPair rd (pMul c.cp c.ca k P)

end Sys2Proof.Machine
end

