-- ==== Sys2Proof/Machine/SignatureVerifier.lean ====
section
/-!
DEFINITION. The pure functions of the signature verifier (spec/43_ecdsa_verify.md).
-/

namespace Sys2Proof.Machine

/-- `0x00 ‖ a`: a 20-byte value expanded to 21 bytes (spec/40_data_movement.md R123; R182 step 1). -/
def expand (a : Big 20) : Big 21 := a.setWidth (8 * 21)

/-- `verify_steps` (R182), on components already expanded to 21 bytes. -/
def verifySteps (c : CurveContext) (Q : Point) (r21 s21 : Big 21) (hash : Big 20) : Bool :=
  let n21 := expand c.cn
  let e21 := bnRed (expand hash) n21
  let rM := bnToMon r21 n21
  let sM := bnToMon s21 n21
  let eM := bnToMon e21 n21
  let sInv := monInv sM n21
  let w1 := bnFromMon (monMul eM sInv n21) n21
  let w2 := bnFromMon (monMul rM sInv n21) n21
  let QM := pToMon c.cp Q
  let R1 := pMul c.cp c.ca w1 ⟨c.cgx, c.cgy⟩
  let R2 := pMul c.cp c.ca w2 QM
  let RM := pAdd c.cp c.ca R1 R2
  let Rp := pFromMon c.cp RM
  let rx := bnRed (expand Rp.x) n21
  let rp := bnFromMon rM n21
  rx = rp

/-- `verify` (R181): components out of the range `0 < r, s < n_ord` give false before anything else. -/
def verify (c : CurveContext) (Q : Point) (r s hash : Big 20) : Bool :=
  let n21 := expand c.cn
  let r21 := expand r
  let s21 := expand s
  if r21 = 0 ∨ s21 = 0 then false
  else if (bnCmp r21 n21).isGE ∨ (bnCmp s21 n21).isGE then false
  else verifySteps c Q r21 s21 hash

end Sys2Proof.Machine
end

