-- ==== Sys2Proof/Machine/DataMovement.lean ====
section
/-!
DEFINITION. The data movement commands (spec/40_data_movement.md).
-/

namespace Sys2Proof.Machine

/-- `LD.w r, addr` (R120): `b[r] <- MemRead(addr, n)`, the tag becomes `n`. -/
def execLd (r : Reg) (w : Width) (addr : BitVec 16) (s : State) : Outcome :=
  s.finish do
    let l ← s.memRead addr.toNat w.bytes
    return s.setReg r (.val w (ofBytes w.bytes l))

/-- `ST r, addr` (R121): the register is stored at its own length. -/
def execSt (r : Reg) (addr : BitVec 16) (s : State) : Outcome :=
  s.finish do
    let l ← s.operandBytes r
    s.memWrite addr.toNat l

/-- `MOV rd, ra` (R122): value and tag are copied. -/
def execMov (rd ra : Reg) (s : State) : Outcome :=
  s.finish do
    let ⟨w, x⟩ ← s.operandScalar ra
    return s.setReg rd (.val w x)

/-- `EXT rd, ra` (R123): a leading zero byte, the same integer, tag 21. -/
def execExt (rd ra : Reg) (s : State) : Outcome :=
  s.finish do
    let x ← s.operand20 .invalidLength ra
    return s.setReg rd (.val .w21 (expand x))

end Sys2Proof.Machine
end

