-- ==== Sys2Proof/Machine/Signature.lean ====
section
/-!
DEFINITION. The signature verification command (spec/43_ecdsa_verify.md).
-/

namespace Sys2Proof.Machine

/-- `VERIFY rh, pq, rr, rs` (R180, R183): writes `V` only, and raises `InvalidSignatureInput` for any operand register
without tag 20. The clearing of `V` at acceptance stands in `State.accept`. -/
def execVerify (rh rq rr rs : Reg) (s : State) : Outcome :=
  s.finish do
    requirePairs [rq]
    let c ← s.operandCurve
    let hash ← s.operand20 .invalidSignatureInput rh
    let Q ← s.operandPoint .invalidSignatureInput rq
    let r ← s.operand20 .invalidSignatureInput rr
    let sig ← s.operand20 .invalidSignatureInput rs
    return { s with v := verify c Q r sig hash }

end Sys2Proof.Machine
end

