-- ==== Sys2Proof/Machine/Dispatch.lean ====
section
/-!
DEFINITION. The dispatch of a decoded command to its meaning: one arm per command (spec/30_encoding.md R98).
-/

namespace Sys2Proof.Machine

/-- The execution of a decoded command up to its completion (R106): all its writes at once, or its fault, with `BUSY <- 0`
and `DONE <- 1`. -/
def exec (i : Instr) (s : State) : Host.Outcome State Fault Refusal :=
  match i with
  | .ld r w addr => Sys2Proof.Machine.execLd r w addr s
  | .st r addr => Sys2Proof.Machine.execSt r addr s
  | .mov rd ra => Sys2Proof.Machine.execMov rd ra s
  | .ext rd ra => Sys2Proof.Machine.execExt rd ra s
  | .bncmp ra rb w => Sys2Proof.Machine.execBncmp ra rb w s
  | .bnadd rd ra rb rn w => Sys2Proof.Machine.execBnadd rd ra rb rn w s
  | .bnsub rd ra rb w => Sys2Proof.Machine.execBnsub rd ra rb w s
  | .bnsubm rd ra rb rn w => Sys2Proof.Machine.execBnsubm rd ra rb rn w s
  | .bnred rd ra rn w => Sys2Proof.Machine.execBnred rd ra rn w s
  | .bntomon rd ra rn w => Sys2Proof.Machine.execBntomon rd ra rn w s
  | .bnfrommon rd ra rn w => Sys2Proof.Machine.execBnfrommon rd ra rn w s
  | .bnmonmul rd ra rb rn w => Sys2Proof.Machine.execBnmonmul rd ra rb rn w s
  | .bnmonexp rd ra rb rn w => Sys2Proof.Machine.execBnmonexp rd ra rb rn w s
  | .bnmoninv rd ra rn w => Sys2Proof.Machine.execBnmoninv rd ra rn w s
  | .crvld addr => Sys2Proof.Machine.execCrvld addr s
  | .crvst addr => Sys2Proof.Machine.execCrvst addr s
  | .ptomon rd ra => Sys2Proof.Machine.execPtomon rd ra s
  | .pfrommon rd ra => Sys2Proof.Machine.execPfrommon rd ra s
  | .pdbl rd ra => Sys2Proof.Machine.execPdbl rd ra s
  | .padd rd ra rb => Sys2Proof.Machine.execPadd rd ra rb s
  | .pmul rd ra rb => Sys2Proof.Machine.execPmul rd ra rb s
  | .verify rh rq rr rs => Sys2Proof.Machine.execVerify rh rq rr rs s
  | .keyld len addr => Sys2Proof.Machine.execKeyld len addr s
  | .subkey => Sys2Proof.Machine.execSubkey s
  | .skst addr => Sys2Proof.Machine.execSkst addr s
  | .cmac16 addr => Sys2Proof.Machine.execCmac16 addr s
  | .cmac20 addr => Sys2Proof.Machine.execCmac20 addr s

end Sys2Proof.Machine
end

