-- ==== Sys2Proof/Machine/Step.lean ====
section
/-!
DEFINITION. One step of the machine: the earliest entry of the agenda happens (spec/20_memory.md R71: every run is an
interleaving of host accesses and engine completions).
-/

namespace Sys2Proof.Machine

/-- The moment of completion (spec/30_encoding.md R106): `Exec(decode(CMD), state)`, an illegal word faulting with
`IllegalCommand`. An idle block does nothing (spec/60_exceptions.md R240). -/
def engineStep (s : State) : Outcome :=
  if s.busy then
    match decode s.cmd with
    | .ok i => exec i s
    | .error _ => .next (s.raise .illegalCommand)
  else .next s

/-- What an entry of the agenda does. -/
def eventStep (s : State) : Event → Outcome
  | .busRead size offset => .next (s.hostRead size offset)
  | .busWrite size offset data => .next (s.hostWrite size offset data)
  | .complete => engineStep s
  | .hardReset content => .next (s.hardReset content)

/-- One step: the next entry of the agenda; when nothing is left on it, a running command completes, since every accepted
command completes with no host action needed (R106). -/
def step (s : State) : Host.Outcome State Fault Refusal :=
  match s.agenda with
  | [] => engineStep s
  | e :: rest => eventStep { s with agenda := rest } e

/-- `s` with a command word accepted (R106) and its completion due next: `CMD` holds the word, the block is busy without a
pending fault, and the agenda begins with the completion (log 7). -/
def State.withFetchWord (s : State) (nbits w : Nat) : State :=
  { s.accept (BitVec.ofNat 32 (w % 2 ^ nbits)) with err := none, agenda := .complete :: s.agenda }

end Sys2Proof.Machine
end

