-- ==== Sys2Proof/Machine/DigestPipeline.lean ====
section
/-!
DEFINITION. The host procedure of spec/45_host_digest_pipeline.md, as pure functions. It is host software, out of scope by
spec/00_scope.md R4 (b): no step of the machine calls it. It is transcribed so that the use of the commands is stated
(log 12).
-/

namespace Sys2Proof.Machine

/-- The five results of a section check (R212). -/
inductive SectionStatus where
  | cmacMismatch
  | hashMismatch
  | signatureInvalid
  | okLegacySignature
  | ok
deriving DecidableEq, Repr

/-- The status precedence, most severe first (R212). -/
def sectionStatus (cmacOk hashOk sigNewOk sigOldOk : Bool) : SectionStatus :=
  if !cmacOk then .cmacMismatch
  else if !hashOk then .hashMismatch
  else if !sigNewOk && !sigOldOk then .signatureInvalid
  else if !sigNewOk then .okLegacySignature
  else .ok

/-- The `SHA1` of the section as the host has it (R10, R211). -/
def sectionHash (section_ : List Byte) : Big 20 := Config.sha1 section_

/-- `validateSection(sectionBytes, digestBlock)` (R210, R211), with the curve, the package key and the two public keys the
host supplies (R215). -/
def validateSection (c : CurveContext) (key : Block) (currentKey legacyKey : Point)
    (sectionBytes digestBlock : List Byte) : SectionStatus :=
  let sha1 := sectionHash sectionBytes
  let cmacOk : Bool := mac16 key sectionBytes = slice digestBlock 0x00 0x10
  let hashOk : Bool := slice digestBlock 0x38 0x40 = slice (toBytes sha1) 0x0C 0x14
  let r := ofBytes 20 (slice digestBlock 0x10 0x24)
  let s := ofBytes 20 (slice digestBlock 0x24 0x38)
  let sigNewOk := verify c currentKey r s sha1
  let sigOldOk := verify c legacyKey r s sha1
  sectionStatus cmacOk hashOk sigNewOk sigOldOk

end Sys2Proof.Machine
end

