-- ==== Sys2Proof/Safety.lean ====
section
/-!
DEFINITION. What a sound state of the block is, and the terms in which statements speak of its runs.
-/

namespace Sys2Proof.Machine

/-- The invariant of the block: what every state that a run reaches satisfies. -/
structure State.Inv (s : State) : Prop where
  /-- `DMEM` is in canonical form -/
  memCanonical : s.dmem.wf
  /-- no byte outside `DMEM` is listed (R42) -/
  memInRange : ∀ c ∈ s.dmem, c.1 < s.dmemBytes
  /-- `DMEM_BYTES` is legal (R5) -/
  sizeLegal : Config.LegalDmemBytes s.dmemBytes
  /-- while `BUSY = 1` both `DONE` and `ERR` are 0 (R37) -/
  busyClean : s.busy = true → s.done = false ∧ s.err = none
  /-- a fault stays visible as `DONE` until it is acknowledged (R231, R233) -/
  faultDone : s.err ≠ none → s.done = true
  /-- `V` reads 0 while a `VERIFY` runs (R26, R106) -/
  verifyClears : s.busy = true → opcodeOf s.cmd = 0x30 → s.v = false
  /-- `PrimeModulusRequired` is never raised (R224) -/
  noPrimeFault : s.err ≠ some .primeModulusRequired
  /-- no curve was loaded: the context is that of reset (R46) -/
  curveBlank : s.crv = false → s.curve = CurveContext.zero
  /-- no key was loaded: key and subkeys are those of reset (R46) -/
  keyBlank : s.keyv = false → s.key = 0 ∧ s.k1 = 0 ∧ s.k2 = 0
  /-- `SKV` means that `K1, K2` were derived from the current `KEY` (R32, R193) -/
  subkeysCurrent : s.skv = true →
    s.keyv = true ∧ s.k1 = dbl128 (Config.aes128Enc s.key 0) ∧ s.k2 = dbl128 s.k1

/-! ### What a state holds -/

/-- The registers of the pair `P(k)` hold a point, both with tag 20 (R23). -/
def State.holdsPoint (s : State) (k : Reg) (P : Point) : Prop :=
  s.b.get k = .val .w20 P.x ∧ s.b.get (k + 1) = .val .w20 P.y

/-- The `n` bytes of `DMEM` from `addr` on spell an `n`-byte integer, most significant byte first (R65). -/
def State.spells (s : State) (addr : Nat) {n : Nat} (x : Big n) : Prop :=
  ∀ i, i < n → s.dmem.read (addr + i) = byteAt x i

/-- Every field of the state is at its reset value (R46), whatever `DMEM` holds. -/
structure State.IsReset (s : State) : Prop where
  registers : ∀ r, s.b.get r = .empty
  flags : s.v = false ∧ s.borrow = false ∧ s.cmp = .eq
  curve : s.curve = { cp := 0, ca := 0, cb := 0, cn := 0, cgx := 0, cgy := 0 } ∧ s.crv = false
  keys : s.key = 0 ∧ s.keyv = false ∧ s.k1 = 0 ∧ s.k2 = 0 ∧ s.skv = false
  command : s.cmd = 0
  status : s.statusWord = 0
  idle : s.busy = false ∧ s.done = false ∧ s.ovr = false ∧ s.err = none
  control : s.ie = false ∧ s.msgaddr = 0 ∧ s.msglen = 0
  interrupt : s.irq = false

/-- The running command completes in the next step: the block is busy and its completion is due, or nothing else is
(R106; the agenda is the model's, log 4). -/
def State.completes (s : State) : Prop := s.busy = true ∧ (s.agenda = [] ∨ ∃ rest, s.agenda = .complete :: rest)

/-! ### Frames -/

/-- `t` is `s` after a command that completed and wrote at most the registers `rs`. -/
structure State.OnlyRegs (s t : State) (rs : List Reg) : Prop where
  rest : t = { s with b := t.b, busy := false, done := true }
  regs : ∀ r, r ∉ rs → t.b.get r = s.b.get r
  mem : ∀ a, t.dmem.read a = s.dmem.read a

/-- `t` is `s` after a command that completed and wrote at most the `n` bytes of `DMEM` from `addr` on. -/
structure State.OnlyMem (s t : State) (addr n : Nat) : Prop where
  rest : t = { s with dmem := t.dmem, busy := false, done := true }
  mem : ∀ a, a < addr ∨ addr + n ≤ a → t.dmem.read a = s.dmem.read a

/-- The two states differ at most in the secrets `KEY`, `K1`, `K2` (R239). -/
def State.SameButKeys (s t : State) : Prop := t = { s with key := t.key, k1 := t.k1, k2 := t.k2 }

/-- The registers a command may write: the "writes" column of R98. -/
def destRegs : Instr → List Reg
  | .ld r _ _ => [r]
  | .mov rd _ => [rd]
  | .ext rd _ => [rd]
  | .bnadd rd _ _ _ _ => [rd]
  | .bnsub rd _ _ _ => [rd]
  | .bnsubm rd _ _ _ _ => [rd]
  | .bnred rd _ _ _ => [rd]
  | .bntomon rd _ _ _ => [rd]
  | .bnfrommon rd _ _ _ => [rd]
  | .bnmonmul rd _ _ _ _ => [rd]
  | .bnmonexp rd _ _ _ _ => [rd]
  | .bnmoninv rd _ _ _ => [rd]
  | .ptomon rd _ => [rd, rd + 1]
  | .pfrommon rd _ => [rd, rd + 1]
  | .pdbl rd _ => [rd, rd + 1]
  | .padd rd _ _ => [rd, rd + 1]
  | .pmul rd _ _ => [rd, rd + 1]
  | _ => []

/-- The `DMEM` range a command writes, as (offset, length) (R64, R98). -/
def destRange (s : State) : Instr → Nat × Nat
  | .st r addr => (addr.toNat, match (s.b.get r).tag? with | some w => w.bytes | none => 0)
  | .crvst addr => (addr.toNat, 120)
  | .skst addr => (addr.toNat, 32)
  | .cmac16 addr => (addr.toNat, 16)
  | .cmac20 addr => (addr.toNat, 20)
  | _ => (0, 0)

/-! ### The checks of the commands (spec/60_exceptions.md R230) -/

/-- The commands that need a loaded curve (R227). -/
def needsCurve : Instr → Bool
  | .crvst _ => true
  | .ptomon _ _ => true
  | .pfrommon _ _ => true
  | .pdbl _ _ => true
  | .padd _ _ _ => true
  | .pmul _ _ _ => true
  | .verify _ _ _ _ => true
  | _ => false

/-- The commands that need a loaded key (R228). -/
def needsKey : Instr → Bool
  | .subkey => true
  | .cmac16 _ => true
  | .cmac20 _ => true
  | _ => false

/-- The context a command needs is there (step 3 of R230). -/
def contextReady (s : State) (i : Instr) : Prop :=
  (needsCurve i = true → s.crv = true) ∧ (needsKey i = true → s.keyv = true) ∧
    ((∃ addr, i = .skst addr) → s.skv = true)

/-- The registers a command reads, each with the tag it must have: a width, or nothing where any tag but `EMPTY` will do
(R22, R98). -/
def sourceTags : Instr → List (Reg × Option Width)
  | .st r _ => [(r, none)]
  | .mov _ ra => [(ra, none)]
  | .ext _ ra => [(ra, some .w20)]
  | .bncmp ra rb w => [(ra, some w), (rb, some w)]
  | .bnadd _ ra rb rn w => [(ra, some w), (rb, some w), (rn, some w)]
  | .bnsub _ ra rb w => [(ra, some w), (rb, some w)]
  | .bnsubm _ ra rb rn w => [(ra, some w), (rb, some w), (rn, some w)]
  | .bnred _ ra rn w => [(ra, some w), (rn, some w)]
  | .bntomon _ ra rn w => [(ra, some w), (rn, some w)]
  | .bnfrommon _ ra rn w => [(ra, some w), (rn, some w)]
  | .bnmonmul _ ra rb rn w => [(ra, some w), (rb, some w), (rn, some w)]
  | .bnmonexp _ ra rb rn w => [(ra, some w), (rb, none), (rn, some w)]
  | .bnmoninv _ ra rn w => [(ra, some w), (rn, some w)]
  | .ptomon _ ra => [(ra, some .w20), (ra + 1, some .w20)]
  | .pfrommon _ ra => [(ra, some .w20), (ra + 1, some .w20)]
  | .pdbl _ ra => [(ra, some .w20), (ra + 1, some .w20)]
  | .padd _ ra rb => [(ra, some .w20), (ra + 1, some .w20), (rb, some .w20), (rb + 1, some .w20)]
  | .pmul _ ra rb => [(ra, some .w20), (ra + 1, some .w20), (rb, none)]
  | .verify rh rq rr rs =>
    [(rh, some .w20), (rq, some .w20), (rq + 1, some .w20), (rr, some .w20), (rs, some .w20)]
  | _ => []

/-- A register has the tag a command wants of it. -/
def tagMatches (s : State) (c : Reg × Option Width) : Prop :=
  match c.2 with
  | some w => (s.b.get c.1).tag? = some w
  | none => (s.b.get c.1).tag? ≠ none

/-- The fault of a wrong tag: `VERIFY` has its own (R22). -/
def tagFault : Instr → FaultCode
  | .verify _ _ _ _ => .invalidSignatureInput
  | _ => .invalidLength

/-- The `DMEM` ranges a command needs, as (offset, length) (R226). -/
def neededRanges (s : State) : Instr → List (Nat × Nat)
  | .ld _ w addr => [(addr.toNat, w.bytes)]
  | .st r addr => [destRange s (.st r addr)]
  | .crvld addr => [(addr.toNat, 120)]
  | .crvst addr => [(addr.toNat, 120)]
  | .keyld _ addr => [(addr.toNat, 16)]
  | .skst addr => [(addr.toNat, 32)]
  | .cmac16 addr => [(s.msgaddr.toNat, s.msglen.toNat), (addr.toNat, 16)]
  | .cmac20 addr => [(s.msgaddr.toNat, s.msglen.toNat), (addr.toNat, 20)]
  | _ => []

/-! ### The opcode table -/

/-- The rows of spec/opcode_table.json as (match, mask), in the table's order; a word `w` is a command of the row when
`w & mask = match`. Transcribed from the table, independently of the decoder. -/
def opcodeTable : List (Word × Word) :=
  [(0x01000000, 0xFF0E0000), (0x02000000, 0xFF0F0000), (0x03000000, 0xFF00FFFF), (0x04000000, 0xFF00FFFF)] ++
  [(0x10000000, 0xFFF00FFE), (0x11000000, 0xFF0000FE), (0x12000000, 0xFF000FFE), (0x13000000, 0xFF0000FE),
   (0x14000000, 0xFF00F0FE), (0x15000000, 0xFF00F0FE), (0x16000000, 0xFF00F0FE), (0x17000000, 0xFF0000FE),
   (0x18000000, 0xFF0000FE), (0x19000000, 0xFF00F0FE)] ++
  [(0x20000000, 0xFFFF0000), (0x21000000, 0xFFFF0000), (0x22000000, 0xFF11FFFF), (0x23000000, 0xFF11FFFF),
   (0x24000000, 0xFF11FFFF), (0x25000000, 0xFF111FFF), (0x26000000, 0xFF110FFF), (0x30000000, 0xFF0100FF)] ++
  [(0x40000000, 0xFF000000), (0x41000000, 0xFFFFFFFF), (0x42000000, 0xFFFF0000), (0x43000000, 0xFFFF0000),
   (0x44000000, 0xFFFF0000)]

/-! ### Terms of the arithmetic statements -/

/-- A 20-byte value is the Montgomery form mod `p`, `R = 2^160`, of the residue `x` (R24, R136). -/
def IsMontgomeryForm (p m : Big 20) (x : ZMod p.toNat) : Prop := (m.toNat : ZMod p.toNat) = x * 2 ^ 160

/-- The byte-serial addition of R132, from the last byte to the first: the bytes of the sum and the carry. -/
def addSerial (a b : List Byte) : List Byte × Nat :=
  (a.zip b).foldr (fun xy r =>
    let u := xy.1.toNat + xy.2.toNat + r.2
    (BitVec.ofNat 8 u :: r.1, u / 256)) ([], 0)

/-- The byte-serial subtraction of R132, from the last byte to the first: the bytes of the difference and the borrow. -/
def subSerial (a b : List Byte) : List Byte × Nat :=
  (a.zip b).foldr (fun xy r =>
    (BitVec.ofNat 8 (xy.1.toNat + 256 - xy.2.toNat - r.2) :: r.1,
      if xy.1.toNat < xy.2.toNat + r.2 then 1 else 0)) ([], 0)

/-- The byte-by-byte comparison of R130, byte 0 first. -/
def cmpSerial : List Byte → List Byte → Ordering
  | x :: a, y :: b => if x.toNat < y.toNat then .lt else if y.toNat < x.toNat then .gt else cmpSerial a b
  | _, _ => .eq

/-! ### The pseudocode of the big-integer commands on plain numbers

Transcribed from the rules of spec/41_bigint.md apart from the engine, for any operands (R144): `M` is `2^(8n)`, every other
argument is below it. -/

/-- `bn_red` (R135). -/
def redValue (N d : Nat) : Nat := if N ≤ d then d - N else d

/-- `bn_add` (R131): after a carry `N` is subtracted once, the borrow discarded. -/
def addValue (M N a b : Nat) : Nat := redValue N (if M ≤ a + b then (a + b - N) % M else a + b)

/-- `bn_subm` (R134): after a borrow `N` is added back, the carry discarded. -/
def subValue (M N a b : Nat) : Nat := if b ≤ a then a - b else (a + N + M - b) % M

/-- `bn_to_mon` (R136): `8n` modular doublings. -/
def toMonValue (n N a : Nat) : Nat := (List.range (8 * n)).foldl (fun d _ => addValue (2 ^ (8 * n)) N d d) a

/-- `mon_digit` (R138): the accumulator `d` after the digit `bj` of the multiplier. -/
def digitValue (M N a d bj : Nat) : Nat :=
  let t0 := (d % 256 + a % 256 * bj) % 256
  let z := t0 * (invEntry (N % 256 / 2)).toNat % 256
  let u := (d + a * bj + N * z) / 256
  redValue N (if M ≤ u then (u - N) % M else u)

/-- `mon_mul` (R139): the digits of `b` from the least significant on, the accumulator zero at first. -/
def mulValue (n N a b : Nat) : Nat :=
  (List.range n).foldl (fun d i => digitValue (2 ^ (8 * n)) N a d (b / 256 ^ i % 256)) 0

/-- `mon_exp` (R140): square, then multiply by `a` where the bit of `e` is 1, over its `bits` bits from the most significant
on, starting from Montgomery-1. -/
def expValue (n N a e bits : Nat) : Nat :=
  (List.range bits).foldl (fun d t =>
    let q := mulValue n N d d
    if e.testBit (bits - 1 - t) then mulValue n N q a else q) (toMonValue n N 1)

/-! ### Terms of the CMAC statements -/

/-- The byte-serial doubling of R192. -/
def dblSerial (x : Block) : Block :=
  let shifted := ofBytes 16 ((List.range 15).map (fun i => (byteAt (n := 16) x i <<< 1) ||| (byteAt (n := 16) x (i + 1) >>> 7))
    ++ [byteAt (n := 16) x 15 <<< 1])
  if byteAt (n := 16) x 0 >>> 7 = 1 then shifted ^^^ 0x87#128 else shifted

/-- The chaining value after the blocks `l`: `c <- AES128_ENC(key, x ^ c)` for each, from the zero IV (R196). -/
def chainValue (key : Block) (l : List Block) : Block := l.foldl (fun c x => Config.aes128Enc key (x ^^^ c)) 0

end Sys2Proof.Machine
end

