-- ==== Sys2Proof/Certificates/Slice0/Obligations.lean ====
section
/-!
DEFINITION. The statements for the provers. Each docstring names the rule of the spec it formalises; a statement that rests
on a choice of the model says so.
-/

open Sys2Proof Sys2Proof.Machine

/-! ### Encoding -/

/-- Decoding the word of a well-formed command gives it back, for every command and every operand (formats R91 to R96). -/
def Obligations.DecodeOfEncode : Prop := ∀ i : Instr, i.wf = true → decode (encode i) = .ok i

/-- A word that decodes is the word of its command, so two different words never decode to the same command (R105). -/
def Obligations.DecodedWordIsEncoding : Prop :=
  (∀ w i, decode w = .ok i → i.wf = true ∧ encode i = w) ∧
  ∀ w w' i, decode w = .ok i → decode w' = .ok i → w = w'

/-- The decoder accepts exactly the words that match a row of the opcode table under its mask (R98, R99, R101). -/
def Obligations.DecoderAcceptsTableRows : Prop :=
  ∀ w : Word, (∃ i, decode w = .ok i) ↔ ∃ row ∈ opcodeTable, w &&& row.2 = row.1

/-- Words written out from the spec's encodings and examples decode to their commands (R120 to R198). -/
def Obligations.SpecWordsDecode : Prop :=
  decode 0x01300100 = .ok (.ld 3 .w20 0x0100) ∧ decode 0x04530000 = .ok (.ext 5 3) ∧
  decode 0x10012001 = .ok (.bncmp 1 2 .w21) ∧ decode 0x17423700 = .ok (.bnmonmul 4 2 3 7 .w20) ∧
  decode 0x19430701 = .ok (.bnmoninv 4 3 7 .w21) ∧ decode 0x20000F88 = .ok (.crvld 0x0F88) ∧
  decode 0x26429000 = .ok (.pmul 4 2 9) ∧ decode 0x30C8AB00 = .ok (.verify 12 8 10 11) ∧
  decode 0x40200400 = .ok (.keyld 32 0x0400) ∧ decode 0x44000440 = .ok (.cmac20 0x0440)

/-- Every opcode outside the table, `0x00` and `0xFF` among them, faults with `IllegalCommand` whatever the other bits are
(R100). -/
def Obligations.UndefinedOpcodesFault : Prop :=
  ∀ (s : State) (rest : List Event), s.busy = true → s.agenda = .complete :: rest →
    (opcodeOf s.cmd).toNat ∉ [0x01, 0x02, 0x03, 0x04, 0x10, 0x11, 0x12, 0x13, 0x14, 0x15, 0x16, 0x17, 0x18, 0x19, 0x20,
      0x21, 0x22, 0x23, 0x24, 0x25, 0x26, 0x30, 0x40, 0x41, 0x42, 0x43, 0x44] →
    step s = .next { s with agenda := rest, err := some .illegalCommand, busy := false, done := true }

/-- An odd point field is `IllegalCommand`; `PMUL`'s scalar register may be odd (R101). -/
def Obligations.OddPointFieldsFault : Prop :=
  (∀ (s : State) (rest : List Event), s.busy = true → s.agenda = .complete :: rest →
    ((opcodeOf s.cmd).toNat ∈ [0x22, 0x23, 0x24, 0x25, 0x26] ∧ (s.cmd.getLsbD 20 = true ∨ s.cmd.getLsbD 16 = true) ∨
      (opcodeOf s.cmd).toNat = 0x25 ∧ s.cmd.getLsbD 12 = true ∨
      (opcodeOf s.cmd).toNat = 0x30 ∧ s.cmd.getLsbD 16 = true) →
    step s = .next { s with agenda := rest, err := some .illegalCommand, busy := false, done := true }) ∧
  ∀ rd ra rb : Reg, rd.isEven = true → ra.isEven = true → decode (encode (.pmul rd ra rb)) = .ok (.pmul rd ra rb)

/-! ### Steps, the bus protocol, resets -/

/-- When the completion of a busy block is due and its command word decodes, the step is the execution of that command
(R106); for every word that does not decode it is the fault `IllegalCommand`, and nothing else changes (R105, R106). So it is
when nothing is left on the agenda (the agenda is the model's, log 4). -/
def Obligations.StepRunsDecodedCommand : Prop :=
  ∀ s : State, s.busy = true →
    (∀ i : Instr, decode s.cmd = .ok i →
      (s.agenda = [] → step s = exec i s) ∧
      ∀ rest, s.agenda = .complete :: rest → step s = exec i { s with agenda := rest }) ∧
    ∀ e : DecodeError, decode s.cmd = .error e →
      (s.agenda = [] → step s = .next { s with err := some .illegalCommand, busy := false, done := true }) ∧
      ∀ rest, s.agenda = .complete :: rest →
        step s = .next { s with agenda := rest, err := some .illegalCommand, busy := false, done := true }

/-- A write to `CMD` of an idle block without a pending fault is accepted (R106). -/
def Obligations.CommandWriteAccepted : Prop :=
  ∀ (s : State) (w : Word) (rest : List Event), s.busy = false → s.err = none →
    s.agenda = .busWrite .word 0x00004 w :: rest →
    step s = .next { s with
      cmd := w, busy := true, done := false, v := (if opcodeOf w = 0x30 then false else s.v), agenda := rest, resp := .done }

/-- While busy, writes to `CMD`, `MSGADDR`, `MSGLEN` and `DMEM` are ignored with `OVR`; writes to `ID`, `STATUS` and `CTRL`
are served, and so are reads; a `CMD` write in fault stop is ignored with `OVR` too (R69). -/
def Obligations.BusyWritesIgnored : Prop :=
  ∀ (s : State) (rest : List Event), Config.LegalDmemBytes s.dmemBytes →
    (∀ (o : BitVec 17) (w : Word), s.busy = true → s.agenda = .busWrite .word o w :: rest →
      (o = 0x00004 ∨ o = 0x00010 ∨ o = 0x00014 ∨
        o.toNat % 4 = 0 ∧ 0x10000 ≤ o.toNat ∧ o.toNat < 0x10000 + s.dmemBytes) →
      step s = .next { s with ovr := true, agenda := rest, resp := .done }) ∧
    (∀ w : Word, s.err ≠ none → s.agenda = .busWrite .word 0x00004 w :: rest →
      step s = .next { s with ovr := true, agenda := rest, resp := .done }) ∧
    (∀ w : Word, s.agenda = .busWrite .word 0x00000 w :: rest → step s = .next { s with agenda := rest, resp := .done }) ∧
    (∀ w : Word, s.busy = true → s.agenda = .busWrite .word 0x00008 w :: rest →
      step s = .next { s with ovr := (s.ovr && !w.getLsbD 2), agenda := rest, resp := .done }) ∧
    (∀ w : Word, w.getLsbD 31 = false → s.agenda = .busWrite .word 0x0000C w :: rest →
      step s = .next { s with ie := w.getLsbD 0, agenda := rest, resp := .done }) ∧
    ∀ (o : BitVec 17), o.toNat % 4 = 0 → (o.toNat < 0x20 ∨ 0x10000 ≤ o.toNat ∧ o.toNat < 0x10000 + s.dmemBytes) →
      s.agenda = .busRead .word o :: rest → ∃ x, step s = .next { s with agenda := rest, resp := .data x }

/-- In fault stop no command is accepted, all state stays readable, and `DMEM`, `MSGADDR`, `MSGLEN`, `CTRL` stay writable
(R232). Those writes and reads do the same for every block that is not busy, with or without a pending fault (R68), and the
reserved offsets ignore writes in every state, busy or not (R41). -/
def Obligations.FaultStopKeepsBusOpen : Prop :=
  ∀ (s : State) (rest : List Event), Config.LegalDmemBytes s.dmemBytes → s.dmem.wf →
    (∀ (o : BitVec 17) w, o = 0x00018 ∨ o = 0x0001C → s.agenda = .busWrite .word o w :: rest →
      step s = .next { s with agenda := rest, resp := .done }) ∧
    (s.busy = false →
      (∀ w, s.err ≠ none → s.agenda = .busWrite .word 0x00004 w :: rest →
        step s = .next { s with ovr := true, agenda := rest, resp := .done }) ∧
      (∀ w, s.agenda = .busWrite .word 0x00010 w :: rest →
        step s = .next { s with msgaddr := w, agenda := rest, resp := .done }) ∧
      (∀ w, s.agenda = .busWrite .word 0x00014 w :: rest →
        step s = .next { s with msglen := w, agenda := rest, resp := .done }) ∧
      (∀ w, w.getLsbD 31 = false → s.agenda = .busWrite .word 0x0000C w :: rest →
        step s = .next { s with ie := w.getLsbD 0, agenda := rest, resp := .done }) ∧
      (∀ (o : BitVec 17) w, o.toNat % 4 = 0 → 0x10000 ≤ o.toNat → o.toNat < 0x10000 + s.dmemBytes →
        s.agenda = .busWrite .word o w :: rest →
        ∃ t, step s = .next t ∧ t = { s with dmem := t.dmem, agenda := rest, resp := .done } ∧
          t.spells (o.toNat - 0x10000) (n := 4) w ∧
          ∀ a, a < o.toNat - 0x10000 ∨ o.toNat - 0x10000 + 4 ≤ a → t.dmem.read a = s.dmem.read a) ∧
      ∀ (o : BitVec 17), o.toNat % 4 = 0 → (o.toNat < 0x20 ∨ 0x10000 ≤ o.toNat ∧ o.toNat < 0x10000 + s.dmemBytes) →
        s.agenda = .busRead .word o :: rest → ∃ x, step s = .next { s with agenda := rest, resp := .data x })

/-- Reads have no side effects: whatever the host reads, only the response of the bus differs (R67). What the control
registers read as: `ID`, `CMD`, `STATUS`, `CTRL`, `MSGADDR`, `MSGLEN` and the reserved offsets (R34 to R36, R38 to R41). -/
def Obligations.ReadsChangeNothing : Prop :=
  ∀ (s : State) (size : AccessSize) (o : BitVec 17) (rest : List Event), s.agenda = .busRead size o :: rest →
    ∃ r, step s = .next { s with agenda := rest, resp := r } ∧
      (size = .word →
        (o = 0x00 → r = .data 0x504B5607) ∧
        (o = 0x04 → r = .data s.cmd) ∧
        (o = 0x08 → r = .data s.statusWord) ∧
        (o = 0x0C → r = .data (if s.ie then 1 else 0)) ∧
        (o = 0x10 → r = .data s.msgaddr) ∧
        (o = 0x14 → r = .data s.msglen) ∧
        (o = 0x18 ∨ o = 0x1C → r = .data 0))

/-- The bus is big-endian: bits 31:24 of a word are the byte at the lowest address (R63). -/
def Obligations.DmemWordsBigEndian : Prop :=
  ∀ (s : State) (a : Nat) (rest : List Event), Config.LegalDmemBytes s.dmemBytes → a % 4 = 0 → a < s.dmemBytes →
    (s.agenda = .busRead .word (BitVec.ofNat 17 (0x10000 + a)) :: rest →
      ∀ x : Word, x = ((s.dmem.read a).setWidth 32 <<< 24 ||| (s.dmem.read (a + 1)).setWidth 32 <<< 16 |||
          (s.dmem.read (a + 2)).setWidth 32 <<< 8 ||| (s.dmem.read (a + 3)).setWidth 32) →
        step s = .next { s with agenda := rest, resp := .data x }) ∧
    ∀ w : Word, s.busy = false → s.dmem.wf → s.agenda = .busWrite .word (BitVec.ofNat 17 (0x10000 + a)) w :: rest →
      ∃ t, step s = .next t ∧ t = { s with dmem := t.dmem, agenda := rest, resp := .done } ∧
        t.dmem.read a = w.extractLsb' 24 8 ∧ t.dmem.read (a + 1) = w.extractLsb' 16 8 ∧
        t.dmem.read (a + 2) = w.extractLsb' 8 8 ∧ t.dmem.read (a + 3) = w.extractLsb' 0 8 ∧
        ∀ x, x < a ∨ a + 4 ≤ x → t.dmem.read x = s.dmem.read x

/-- An access the bus map or the access size does not allow gets an error response and changes no state, not even `OVR`
(R62, R75). -/
def Obligations.BusErrorsChangeNothing : Prop :=
  ∀ (s : State) (size : AccessSize) (o : BitVec 17) (rest : List Event),
    (size ≠ .word ∨ o.toNat % 4 ≠ 0 ∨ 0x20 ≤ o.toNat ∧ o.toNat < 0x10000 ∨ 0x10000 + s.dmemBytes ≤ o.toNat) →
    (s.agenda = .busRead size o :: rest → step s = .next { s with agenda := rest, resp := .error }) ∧
    ∀ w, s.agenda = .busWrite size o w :: rest → step s = .next { s with agenda := rest, resp := .error }

/-- The fields of `STATUS` stand at the bits of R37, every reserved bit reads 0, and `ERR` holds the number R220 gives each
fault. -/
def Obligations.StatusFieldsAtTheirBits : Prop :=
  ∀ s : State,
    (∀ k, k < 32 → s.statusWord.getLsbD k = match k with
      | 0 => s.busy
      | 1 => s.done
      | 2 => s.ovr
      | 3 => s.v
      | 4 => s.borrow
      | 5 => decide (s.cmp ≠ .eq)
      | 6 => decide (s.cmp = .lt)
      | 8 => s.crv
      | 9 => s.keyv
      | 10 => s.skv
      | k => if 16 ≤ k ∧ k < 24 then (errCode s.err).getLsbD (k - 16) else false) ∧
    (errCode s.err = 0 ↔ s.err = none) ∧
    errCode none = 0x00 ∧ errCode (some .invalidLength) = 0x01 ∧ errCode (some .invalidKeyLength) = 0x02 ∧
    errCode (some .invalidSignatureInput) = 0x03 ∧ errCode (some .primeModulusRequired) = 0x04 ∧
    errCode (some .illegalCommand) = 0x10 ∧ errCode (some .addressRange) = 0x11 ∧
    errCode (some .curveNotLoaded) = 0x12 ∧ errCode (some .keyNotLoaded) = 0x13 ∧ errCode (some .shortMessage) = 0x14

/-- A write of `STATUS` clears `OVR` by bit 2 at any time, and by bit 1, while `BUSY = 0`, acknowledges: `DONE <- 0`,
`ERR <- 0`, and nothing else changes (R37, R233). -/
def Obligations.StatusWriteAcknowledges : Prop :=
  ∀ (s : State) (w : Word) (rest : List Event), s.agenda = .busWrite .word 0x00008 w :: rest →
    step s = .next { s with
      ovr := (s.ovr && !w.getLsbD 2),
      done := (s.done && !(w.getLsbD 1 && !s.busy)),
      err := (if w.getLsbD 1 = true ∧ s.busy = false then none else s.err),
      agenda := rest, resp := .done }

/-- The level of `irq` (R236): a completed command raises it if enabled, with or without fault; accepting a command and
acknowledging lower it. -/
def Obligations.InterruptFollowsDone : Prop :=
  (∀ (i : Instr) (s t : State), exec i s = .next t → t.irq = s.ie) ∧
  (∀ (s : State) (w : Word) (rest : List Event), s.busy = false → s.err = none →
    s.agenda = .busWrite .word 0x00004 w :: rest → ∃ t, step s = .next t ∧ t.irq = false) ∧
  (∀ (s : State) (w : Word) (rest : List Event), s.busy = false → w.getLsbD 1 = true →
    s.agenda = .busWrite .word 0x00008 w :: rest → ∃ t, step s = .next t ∧ t.irq = false)

/-- A soft reset takes effect at once, busy or not: every field at its reset value, `DMEM` kept (R252). -/
def Obligations.SoftResetKeepsDmem : Prop :=
  ∀ (s : State) (w : Word) (rest : List Event), w.getLsbD 31 = true → s.agenda = .busWrite .word 0x0000C w :: rest →
    ∃ t, step s = .next t ∧ t.IsReset ∧ t.dmem = s.dmem ∧ t.dmemBytes = s.dmemBytes ∧ t.agenda = rest

/-- A hardware reset takes effect at once, busy or not: every field at its reset value, and every content of `DMEM` can be
the one it leaves (R250, R251, R46). That the reset event carries the content is the model's choice (log 8); it keeps the
agenda, the surroundings' own. -/
def Obligations.HardResetLeavesAnyDmem : Prop :=
  (∀ (s : State) (content : List Host.Cell) (rest : List Event), s.agenda = .hardReset content :: rest →
    ∃ t, step s = .next t ∧ t.IsReset ∧ t.dmemBytes = s.dmemBytes ∧ t.agenda = rest ∧ t.dmem.wf) ∧
  ∀ (s : State) (bytes : List Byte) (rest : List Event), bytes.length = s.dmemBytes →
    ∃ content t, step { s with agenda := .hardReset content :: rest } = .next t ∧
      t.dmem.readBytes 0 s.dmemBytes = bytes

/-- The machine after reset has every field at its reset value and satisfies the invariant (R46). The size and the content
of `DMEM` are the model's choice (log 1, log 2), so the statement is made for every legal size and every content. -/
def Obligations.ResetStateSound : Prop :=
  State.reset.IsReset ∧ State.reset.Inv ∧
  ∀ (n : Nat) (cells : List Host.Cell), Config.LegalDmemBytes n → (State.powerOn n (Memory.ofCells n cells)).Inv

/-- Every step from a state of the invariant, whatever happens next, gives a state of the invariant. -/
def Obligations.StepKeepsInvariant : Prop := ∀ s t : State, s.Inv → step s = .next t → t.Inv

/-! ### Commands as a whole -/

/-- A command that faults leaves the state exactly as it was, plus `ERR`, `DONE` and `BUSY` (R231). -/
def Obligations.FaultsArePrecise : Prop :=
  ∀ (i : Instr) (s t : State), s.err = none → exec i s = .next t → t.err ≠ none →
    t = { s with err := t.err, busy := false, done := true }

/-- Every command completes, with `BUSY = 0` and `DONE = 1`, and touches neither `CMD`, `OVR`, `CTRL`, `MSGADDR`, `MSGLEN`
nor the surroundings (R106, R261). That every step of the machine has a next state, the bus errors included, is the model's
choice: a fault of a command is a next state (log 5), and so is a bus error, which R75 lets a model refuse (log 6). -/
def Obligations.EveryCommandCompletes : Prop :=
  (∀ (i : Instr) (s : State), ∃ t, exec i s = .next t ∧ t.busy = false ∧ t.done = true ∧ t.cmd = s.cmd ∧ t.ovr = s.ovr ∧
    t.ie = s.ie ∧ t.msgaddr = s.msgaddr ∧ t.msglen = s.msglen ∧ t.dmemBytes = s.dmemBytes ∧ t.agenda = s.agenda ∧
    t.resp = s.resp) ∧
  ∀ s : State, ∃ t, step s = .next t

/-- A busy block is idle again after finitely many steps, whatever the host does meanwhile (R106). The bound is one more than
the length of the model's agenda (log 4): the last of these steps finds the agenda empty. -/
def Obligations.BusyBlockBecomesIdle : Prop :=
  ∀ s : State, s.busy = true →
    ∃ k, k ≤ s.agenda.length + 1 ∧ ∃ t : State, Host.Core.run Sys2Proof.core k s = .next t ∧ t.busy = false

/-- In every step but a reset: the curve context changes only where a `CRVLD` completes and the key only where a `KEYLD`
does (R44, R31); where no command completes, `b` stays whatever the host does, busy or not, and so does `DMEM` unless the
host writes it (R44). -/
def Obligations.ContextAndKeyPersist : Prop :=
  ∀ s t : State, step s = .next t →
    (∀ content rest, s.agenda ≠ .hardReset content :: rest) →
    (∀ w rest, w.getLsbD 31 = true → s.agenda ≠ .busWrite .word 0x0000C w :: rest) →
    ((s.completes → ∀ addr, decode s.cmd ≠ .ok (.crvld addr)) → t.curve = s.curve ∧ t.crv = s.crv) ∧
    ((s.completes → ∀ len addr, decode s.cmd ≠ .ok (.keyld len addr)) → t.key = s.key ∧ t.keyv = s.keyv) ∧
    (¬ s.completes → t.b = s.b) ∧
    (¬ s.completes → (∀ o w rest, 0x10000 ≤ o.toNat → s.agenda ≠ .busWrite .word o w :: rest) → t.dmem = s.dmem)

/-- The frame of every command: no register but its destination changes, no byte of memory outside the range it stores to
changes, and each result flag has one writer: `CMP` `BNCMP`, `BORROW` `BNSUB`, `V` `VERIFY` (R26 to R28, R98). -/
def Obligations.CommandFrames : Prop :=
  ∀ (i : Instr) (s t : State), s.dmem.wf → exec i s = .next t →
    (∀ r, r ∉ destRegs i → t.b.get r = s.b.get r) ∧
    (∀ a, a < (destRange s i).1 ∨ (destRange s i).1 + (destRange s i).2 ≤ a → t.dmem.read a = s.dmem.read a) ∧
    ((∀ ra rb w, i ≠ .bncmp ra rb w) → t.cmp = s.cmp) ∧
    ((∀ rd ra rb w, i ≠ .bnsub rd ra rb w) → t.borrow = s.borrow) ∧
    ((∀ rh rq rr rs, i ≠ .verify rh rq rr rs) → t.v = s.v)

/-- The keys do not leak over the bus: two states that differ in `KEY`, `K1`, `K2` only stay so through every step but the
completion of `SKST`, `CMAC16` or `CMAC20`, the bus responses included (R31, R239). While such a command waits or after it
has completed, `CMD` still holding its word, the host's accesses and the resets do not leak them either. -/
def Obligations.KeysDoNotLeak : Prop :=
  ∀ s t : State, s.SameButKeys t →
    (s.completes → ∀ addr, decode s.cmd ≠ .ok (.skst addr) ∧ decode s.cmd ≠ .ok (.cmac16 addr) ∧
      decode s.cmd ≠ .ok (.cmac20 addr)) →
    ∃ s' t', step s = .next s' ∧ step t = .next t' ∧ s'.SameButKeys t'

/-! ### The order of the checks (R230) -/

/-- The first checks: the key length of `KEYLD` and the context valid flags, each before every later check (R230 steps 2
and 3, R222, R227, R228). The clause on an ill-formed point field is the model's (log 13): no word decodes to such a term, and
the spec gives that fault to the word (R101). -/
def Obligations.ContextChecksComeFirst : Prop :=
  ∀ (i : Instr) (s : State),
    (i.wf = false → exec i s = .next (s.raise .illegalCommand)) ∧
    (∀ len addr, i = .keyld len addr → len ≠ 16 → exec i s = .next (s.raise .invalidKeyLength)) ∧
    (i.wf = true → needsCurve i = true → s.crv = false → exec i s = .next (s.raise .curveNotLoaded)) ∧
    (needsKey i = true → s.keyv = false → exec i s = .next (s.raise .keyNotLoaded)) ∧
    ∀ addr, i = .skst addr → s.skv = false → exec i s = .next (s.raise .keyNotLoaded)

/-- A source register that is `EMPTY` or has not the expected tag faults, with `InvalidLength` or for `VERIFY` with
`InvalidSignatureInput`, before any address check (R22, R221, R223, R230 step 4). -/
def Obligations.WrongTagsFault : Prop :=
  ∀ (i : Instr) (s : State), i.wf = true → contextReady s i → (∃ c ∈ sourceTags i, ¬ tagMatches s c) →
    exec i s = .next (s.raise (tagFault i))

/-- A `DMEM` range that does not fit faults with `AddressRange` once the earlier checks pass, and `CMAC20` of a short
message faults with `ShortMessage` after that (R66, R226, R229, R230 steps 5 and 6). -/
def Obligations.RangesThatDoNotFitFault : Prop :=
  (∀ (i : Instr) (s : State), i.wf = true → contextReady s i → (∀ c ∈ sourceTags i, tagMatches s c) →
    (∀ len addr, i = .keyld len addr → len = 16) →
    (∃ r ∈ neededRanges s i, s.dmemBytes < r.1 + r.2) → exec i s = .next (s.raise .addressRange)) ∧
  ∀ (s : State) (addr : BitVec 16), s.keyv = true → s.msgaddr.toNat + s.msglen.toNat ≤ s.dmemBytes →
    addr.toNat + 20 ≤ s.dmemBytes → s.msglen.toNat ≤ 16 → exec (.cmac20 addr) s = .next (s.raise .shortMessage)

/-! ### Data movement -/

/-- `LD` (R120): the register takes the `n` bytes, most significant first, with tag `n`; nothing else changes. -/
def Obligations.LdLoadsInteger : Prop :=
  ∀ (s : State) (r : Reg) (w : Width) (addr : BitVec 16), addr.toNat + w.bytes ≤ s.dmemBytes →
    ∃ t x, exec (.ld r w addr) s = .next t ∧ t.b.get r = .val w x ∧ s.spells addr.toNat x ∧ s.OnlyRegs t [r]

/-- `ST` (R121): the register is stored at its own length; nothing outside those bytes changes. -/
def Obligations.StStoresAtOwnLength : Prop :=
  ∀ (s : State) (r : Reg) (w : Width) (x : Big w.bytes) (addr : BitVec 16), s.dmem.wf → s.b.get r = .val w x →
    addr.toNat + w.bytes ≤ s.dmemBytes →
    ∃ t, exec (.st r addr) s = .next t ∧ t.spells addr.toNat x ∧ s.OnlyMem t addr.toNat w.bytes

/-- `MOV` (R122) copies value and tag; `rd = ra` leaves the register as it is. -/
def Obligations.MovCopiesValueAndTag : Prop :=
  ∀ (s : State) (rd ra : Reg) (w : Width) (x : Big w.bytes), s.b.get ra = .val w x →
    ∃ t, exec (.mov rd ra) s = .next t ∧ t.b.get rd = .val w x ∧ s.OnlyRegs t [rd] ∧ (rd = ra → t.b = s.b)

/-- `EXT` (R123): a leading zero byte, then the 20 bytes of the source; the integer is the same. -/
def Obligations.ExtPrependsZeroByte : Prop :=
  ∀ (s : State) (rd ra : Reg) (x : Big 20), s.b.get ra = .val .w20 x →
    ∃ t y, exec (.ext rd ra) s = .next t ∧ t.b.get rd = .val .w21 y ∧ y.toNat = x.toNat ∧ byteAt (n := 21) y 0 = 0 ∧
      (∀ i, i < 20 → byteAt (n := 21) y (i + 1) = byteAt x i) ∧ s.OnlyRegs t [rd]

/-! ### Big integers -/

/-- `BNCMP` (R130): `CMP` is the byte-by-byte comparison, byte 0 first, which is the sign of the difference of the values;
no register and no other flag changes. -/
def Obligations.BncmpComparesBytes : Prop :=
  ∀ (s : State) (ra rb : Reg) (w : Width) (a b : Big w.bytes), s.b.get ra = .val w a → s.b.get rb = .val w b →
    exec (.bncmp ra rb w) s = .next { s with cmp := cmpSerial (toBytes a) (toBytes b), busy := false, done := true } ∧
    (cmpSerial (toBytes a) (toBytes b) = .lt ↔ a.toNat < b.toNat) ∧
    (cmpSerial (toBytes a) (toBytes b) = .gt ↔ b.toNat < a.toNat)

/-- The raw sum and difference computed byte by byte from the last byte are the closed forms, wrapped to `n` bytes (the
sentence of R132 that the spec marks as derived; the closed forms stand in the model, log 10). -/
def Obligations.RawSumsAreByteSerial : Prop :=
  ∀ (n : Nat) (a b : Big n),
    addSerial (toBytes a) (toBytes b) = (toBytes (addRaw a b).1, (addRaw a b).2) ∧
    subSerial (toBytes a) (toBytes b) = (toBytes (subRaw a b).1, if (subRaw a b).2 then 1 else 0) ∧
    (addRaw a b).1.toNat = (a.toNat + b.toNat) % 2 ^ (8 * n) ∧
    (addRaw a b).2 = (a.toNat + b.toNat) / 2 ^ (8 * n) ∧
    (subRaw a b).1.toNat = (a.toNat + 2 ^ (8 * n) - b.toNat) % 2 ^ (8 * n) ∧
    ((subRaw a b).2 = true ↔ a.toNat < b.toNat)

/-- `BNADD` (R131): the three steps for all operands, and the modular sum for operands below the modulus. -/
def Obligations.BnaddAddsModuloN : Prop :=
  ∀ (s : State) (rd ra rb rn : Reg) (w : Width) (a b n : Big w.bytes),
    s.b.get ra = .val w a → s.b.get rb = .val w b → s.b.get rn = .val w n →
    ∃ t d, exec (.bnadd rd ra rb rn w) s = .next t ∧ t.b.get rd = .val w d ∧ s.OnlyRegs t [rd] ∧
      (∀ x, x = (if 2 ^ (8 * w.bytes) ≤ a.toNat + b.toNat then (a.toNat + b.toNat - n.toNat) % 2 ^ (8 * w.bytes)
          else a.toNat + b.toNat) → d.toNat = if n.toNat ≤ x then x - n.toNat else x) ∧
      (a.toNat < n.toNat → b.toNat < n.toNat → d.toNat = (a.toNat + b.toNat) % n.toNat)

/-- `BNSUB` (R133): the difference wrapped to `n` bytes, and `BORROW`. -/
def Obligations.BnsubWritesBorrow : Prop :=
  ∀ (s : State) (rd ra rb : Reg) (w : Width) (a b : Big w.bytes), s.b.get ra = .val w a → s.b.get rb = .val w b →
    ∃ t d, exec (.bnsub rd ra rb w) s = .next t ∧ t.b.get rd = .val w d ∧
      d.toNat = (a.toNat + 2 ^ (8 * w.bytes) - b.toNat) % 2 ^ (8 * w.bytes) ∧
      t = { s with b := t.b, borrow := decide (a.toNat < b.toNat), busy := false, done := true } ∧
      ∀ r, r ≠ rd → t.b.get r = s.b.get r

/-- `BNSUBM` (R134): raw subtraction, the modulus added back after a borrow; the modular difference for operands below the
modulus. -/
def Obligations.BnsubmSubtractsModuloN : Prop :=
  ∀ (s : State) (rd ra rb rn : Reg) (w : Width) (a b n : Big w.bytes),
    s.b.get ra = .val w a → s.b.get rb = .val w b → s.b.get rn = .val w n →
    ∃ t d, exec (.bnsubm rd ra rb rn w) s = .next t ∧ t.b.get rd = .val w d ∧ s.OnlyRegs t [rd] ∧
      (b.toNat ≤ a.toNat → d.toNat = a.toNat - b.toNat) ∧
      (a.toNat < b.toNat → d.toNat = (a.toNat + n.toNat + 2 ^ (8 * w.bytes) - b.toNat) % 2 ^ (8 * w.bytes)) ∧
      (a.toNat < n.toNat → b.toNat < n.toNat → d.toNat = (a.toNat + n.toNat - b.toNat) % n.toNat)

/-- `BNRED` (R135): one conditional subtraction, the remainder for values below twice the modulus. -/
def Obligations.BnredSubtractsOnce : Prop :=
  ∀ (s : State) (rd ra rn : Reg) (w : Width) (a n : Big w.bytes), s.b.get ra = .val w a → s.b.get rn = .val w n →
    ∃ t d, exec (.bnred rd ra rn w) s = .next t ∧ t.b.get rd = .val w d ∧ s.OnlyRegs t [rd] ∧
      d.toNat = (if n.toNat ≤ a.toNat then a.toNat - n.toNat else a.toNat) ∧
      (a.toNat < 2 * n.toNat → d.toNat = a.toNat % n.toNat)

/-- `BNTOMON` (R136): for all operands the `8n` modular doublings of the pseudocode (R144); for a value below the modulus,
odd or even, the result is `a · 2^(8n) mod N`. -/
def Obligations.BntomonMultipliesByRadix : Prop :=
  ∀ (s : State) (rd ra rn : Reg) (w : Width) (a n : Big w.bytes), s.b.get ra = .val w a → s.b.get rn = .val w n →
    ∃ t d, exec (.bntomon rd ra rn w) s = .next t ∧ t.b.get rd = .val w d ∧ s.OnlyRegs t [rd] ∧
      d.toNat = toMonValue w.bytes n.toNat a.toNat ∧
      (a.toNat < n.toNat → d.toNat = a.toNat * 2 ^ (8 * w.bytes) % n.toNat)

/-- `BNFROMMON` (R137): for all operands the multiplication by 1 of the pseudocode (R144); for an odd modulus and a value below
it, the residue `d` below `N` with `d · 2^(8n) = a mod N`. -/
def Obligations.BnfrommonDividesByRadix : Prop :=
  ∀ (s : State) (rd ra rn : Reg) (w : Width) (a n : Big w.bytes), s.b.get ra = .val w a → s.b.get rn = .val w n →
    ∃ t d, exec (.bnfrommon rd ra rn w) s = .next t ∧ t.b.get rd = .val w d ∧ s.OnlyRegs t [rd] ∧
      d.toNat = mulValue w.bytes n.toNat a.toNat 1 ∧
      (n.toNat % 2 = 1 → a.toNat < n.toNat → d.toNat < n.toNat ∧ d.toNat * 2 ^ (8 * w.bytes) ≡ a.toNat [MOD n.toNat])

/-- `BNTOMON` and then `BNFROMMON` give the value back, for an odd modulus and a value below it (R137, PKGV §8). Where the
first command writes over the modulus (`rd = rn`, R145), the second takes that result as value and as modulus. -/
def Obligations.MontgomeryRoundTrip : Prop :=
  ∀ (s : State) (rd re ra rn : Reg) (w : Width) (a n : Big w.bytes),
    s.b.get ra = .val w a → s.b.get rn = .val w n → a.toNat < n.toNat →
    ∃ t u e, exec (.bntomon rd ra rn w) s = .next t ∧ exec (.bnfrommon re rd rn w) t = .next u ∧
      u.b.get re = .val w e ∧
      (rd ≠ rn → n.toNat % 2 = 1 → e = a) ∧
      (rd = rn → ∀ m, m = a.toNat * 2 ^ (8 * w.bytes) % n.toNat → e.toNat = mulValue w.bytes m m 1)

/-- The digit step (R138): for all operands the value of the pseudocode (R144); for an odd modulus the multiplier `z` is the one
byte that makes the sum divisible by 256, and the step then divides exactly, keeping the accumulator below the modulus. -/
def Obligations.DigitStepDividesExactly : Prop :=
  ∀ (n : Nat) (d a N : Big n) (bj : Byte), 0 < n →
    (monDigit d a bj N).toNat = digitValue (2 ^ (8 * n)) N.toNat a.toNat d.toNat bj.toNat ∧
    (N.toNat % 2 = 1 → d.toNat < N.toNat → a.toNat < N.toNat →
      (∃ z : Byte, (∀ y : Byte, (d.toNat + a.toNat * bj.toNat + N.toNat * y.toNat) % 256 = 0 ↔ y = z) ∧
        (monDigit d a bj N).toNat * 256 ≡ d.toNat + a.toNat * bj.toNat + N.toNat * z.toNat [MOD N.toNat]) ∧
      (monDigit d a bj N).toNat < N.toNat)

/-- `BNMONMUL` (R139): for all operands the `n` digit steps of the pseudocode (R144); for an odd modulus, `a` below it and any
`b`, the residue `d` below `N` with `d · 2^(8n) = a · b mod N`; zero if either factor is zero, whatever the modulus. -/
def Obligations.BnmonmulMultiplies : Prop :=
  ∀ (s : State) (rd ra rb rn : Reg) (w : Width) (a b n : Big w.bytes),
    s.b.get ra = .val w a → s.b.get rb = .val w b → s.b.get rn = .val w n →
    ∃ t d, exec (.bnmonmul rd ra rb rn w) s = .next t ∧ t.b.get rd = .val w d ∧ s.OnlyRegs t [rd] ∧
      d.toNat = mulValue w.bytes n.toNat a.toNat b.toNat ∧
      (n.toNat % 2 = 1 → a.toNat < n.toNat →
        d.toNat < n.toNat ∧ d.toNat * 2 ^ (8 * w.bytes) ≡ a.toNat * b.toNat [MOD n.toNat]) ∧
      (a.toNat = 0 ∨ b.toNat = 0 → d.toNat = 0)

/-- `BNMONEXP` (R140): for all operands the square-and-multiply of the pseudocode over all bits of the exponent (R144); for an
odd modulus above 1 and a base below it that stands for `x`, the Montgomery form of `x^e`. The exponent has its own length. -/
def Obligations.BnmonexpRaisesToPower : Prop :=
  ∀ (s : State) (rd ra rb rn : Reg) (w we : Width) (a n : Big w.bytes) (e : Big we.bytes),
    s.b.get ra = .val w a → s.b.get rb = .val we e → s.b.get rn = .val w n →
    ∃ t d, exec (.bnmonexp rd ra rb rn w) s = .next t ∧ t.b.get rd = .val w d ∧ s.OnlyRegs t [rd] ∧
      d.toNat = expValue w.bytes n.toNat a.toNat e.toNat (8 * we.bytes) ∧
      (n.toNat % 2 = 1 → 1 < n.toNat → a.toNat < n.toNat → d.toNat < n.toNat ∧
        ∀ x, a.toNat ≡ x * 2 ^ (8 * w.bytes) [MOD n.toNat] →
          d.toNat ≡ x ^ e.toNat * 2 ^ (8 * w.bytes) [MOD n.toNat])

/-- `BNMONINV` (R141): for all operands the power with the exponent `N - 2`, wrapped to `n` bytes (R144); for an odd prime
modulus and a nonzero value below it that stands for `x`, the Montgomery form of the inverse of `x`: the product with `a` is
`R²`. The inverse of zero is zero. -/
def Obligations.BnmoninvInverts : Prop :=
  ∀ (s : State) (rd ra rn : Reg) (w : Width) (a n : Big w.bytes), s.b.get ra = .val w a → s.b.get rn = .val w n →
    ∃ t d, exec (.bnmoninv rd ra rn w) s = .next t ∧ t.b.get rd = .val w d ∧ s.OnlyRegs t [rd] ∧
      d.toNat = expValue w.bytes n.toNat a.toNat ((n.toNat + 2 ^ (8 * w.bytes) - 2) % 2 ^ (8 * w.bytes)) (8 * w.bytes) ∧
      (n.toNat.Prime → n.toNat ≠ 2 → 0 < a.toNat → a.toNat < n.toNat →
        d.toNat < n.toNat ∧ a.toNat * d.toNat ≡ 2 ^ (8 * w.bytes) * 2 ^ (8 * w.bytes) [MOD n.toNat]) ∧
      (3 ≤ n.toNat → a.toNat = 0 → d.toNat = 0)

/-! ### Curve and points -/

/-- `CRVLD` (R160): `p` and `n` are copied, `a`, `b`, `G.x`, `G.y` converted by the doublings of `BNTOMON` (into Montgomery form
mod `p`, for values below `p`), each from its place in the 120-byte block; `CRV <- 1`; nothing else changes. -/
def Obligations.CrvldConstructsCurve : Prop :=
  ∀ (s : State) (addr : BitVec 16), addr.toNat + 120 ≤ s.dmemBytes →
    ∃ c : CurveContext, exec (.crvld addr) s = .next { s with curve := c, crv := true, busy := false, done := true } ∧
      s.spells addr.toNat c.cp ∧ s.spells (addr.toNat + 60) c.cn ∧
      ∀ x : Big 20,
        (s.spells (addr.toNat + 20) x → c.ca.toNat = toMonValue 20 c.cp.toNat x.toNat) ∧
        (s.spells (addr.toNat + 40) x → c.cb.toNat = toMonValue 20 c.cp.toNat x.toNat) ∧
        (s.spells (addr.toNat + 80) x → c.cgx.toNat = toMonValue 20 c.cp.toNat x.toNat) ∧
        (s.spells (addr.toNat + 100) x → c.cgy.toNat = toMonValue 20 c.cp.toNat x.toNat) ∧
        (x.toNat < c.cp.toNat → toMonValue 20 c.cp.toNat x.toNat = x.toNat * 2 ^ 160 % c.cp.toNat)

/-- `CRVST` (R161): the six registers of the context in the order of R76. -/
def Obligations.CrvstDumpsContext : Prop :=
  ∀ (s : State) (addr : BitVec 16), s.dmem.wf → s.crv = true → addr.toNat + 120 ≤ s.dmemBytes →
    ∃ t, exec (.crvst addr) s = .next t ∧ s.OnlyMem t addr.toNat 120 ∧
      t.spells addr.toNat s.curve.cp ∧ t.spells (addr.toNat + 20) s.curve.ca ∧ t.spells (addr.toNat + 40) s.curve.cb ∧
      t.spells (addr.toNat + 60) s.curve.cn ∧ t.spells (addr.toNat + 80) s.curve.cgx ∧
      t.spells (addr.toNat + 100) s.curve.cgy

/-- `PTOMON` and `PFROMMON` (R162, R163) convert both coordinates mod `CP`, as `BNTOMON` and `BNFROMMON` do for any values; the
point at infinity maps to itself. -/
def Obligations.PointConversions : Prop :=
  ∀ (s : State) (rd ra : Reg) (P : Point), rd.isEven = true → ra.isEven = true → s.crv = true → s.holdsPoint ra P →
    (∃ t R, exec (.ptomon rd ra) s = .next t ∧ t.holdsPoint rd R ∧ s.OnlyRegs t [rd, rd + 1] ∧
      R.x.toNat = toMonValue 20 s.curve.cp.toNat P.x.toNat ∧ R.y.toNat = toMonValue 20 s.curve.cp.toNat P.y.toNat ∧
      (P.x.toNat < s.curve.cp.toNat → R.x.toNat = P.x.toNat * 2 ^ 160 % s.curve.cp.toNat) ∧
      (P.y.toNat < s.curve.cp.toNat → R.y.toNat = P.y.toNat * 2 ^ 160 % s.curve.cp.toNat) ∧
      (P = Point.inf → R = Point.inf)) ∧
    ∃ t R, exec (.pfrommon rd ra) s = .next t ∧ t.holdsPoint rd R ∧ s.OnlyRegs t [rd, rd + 1] ∧
      R.x.toNat = mulValue 20 s.curve.cp.toNat P.x.toNat 1 ∧ R.y.toNat = mulValue 20 s.curve.cp.toNat P.y.toNat 1 ∧
      (s.curve.cp.toNat % 2 = 1 → P.x.toNat < s.curve.cp.toNat → P.y.toNat < s.curve.cp.toNat →
        R.x.toNat < s.curve.cp.toNat ∧ R.y.toNat < s.curve.cp.toNat ∧
        R.x.toNat * 2 ^ 160 ≡ P.x.toNat [MOD s.curve.cp.toNat] ∧
        R.y.toNat * 2 ^ 160 ≡ P.y.toNat [MOD s.curve.cp.toNat]) ∧
      (P = Point.inf → R = Point.inf)

/-- `PDBL` (R164) writes the result of the pseudocode for any coordinates and any `p` (`pDbl`); a point with `y = 0` doubles to
infinity; over an odd prime `p`, with reduced coordinates and `y ≠ 0`, the result has the coordinates of the tangent
formulas. -/
def Obligations.PdblDoubles : Prop :=
  ∀ (s : State) (rd ra : Reg) (P : Point), rd.isEven = true → ra.isEven = true → s.crv = true → s.holdsPoint ra P →
    ∃ t R, exec (.pdbl rd ra) s = .next t ∧ t.holdsPoint rd R ∧ s.OnlyRegs t [rd, rd + 1] ∧
      R = pDbl s.curve.cp s.curve.ca P ∧
      (P.y = 0 → R = Point.inf) ∧
      (s.curve.cp.toNat.Prime → s.curve.cp.toNat ≠ 2 → P.x.toNat < s.curve.cp.toNat → P.y.toNat < s.curve.cp.toNat →
        s.curve.ca.toNat < s.curve.cp.toNat → P.y ≠ 0 →
        R.x.toNat < s.curve.cp.toNat ∧ R.y.toNat < s.curve.cp.toNat ∧
        ∀ x y a : ZMod s.curve.cp.toNat, IsMontgomeryForm s.curve.cp P.x x → IsMontgomeryForm s.curve.cp P.y y →
          IsMontgomeryForm s.curve.cp s.curve.ca a →
          ∃ m, m * (2 * y) = 3 * x ^ 2 + a ∧ IsMontgomeryForm s.curve.cp R.x (m ^ 2 - 2 * x) ∧
            IsMontgomeryForm s.curve.cp R.y (m * (x - (m ^ 2 - 2 * x)) - y))

/-- `PADD` (R165) writes the result of the pseudocode for any coordinates and any `p` (`pAdd`). Infinity is the identity; a
point added to itself, in the same pair or in another, is doubled; finite points with `u = 0` are doubled where `v = 0` and
else give infinity. Over an odd prime `p` with reduced coordinates, points with equal `x` and different `y` give infinity,
and points with different `x` give the coordinates of the chord formulas. -/
def Obligations.PaddAdds : Prop :=
  (∀ (s : State) (rd ra : Reg), exec (.padd rd ra ra) s = exec (.pdbl rd ra) s) ∧
  ∀ (s : State) (rd ra rb : Reg) (P Q : Point), rd.isEven = true → ra.isEven = true → rb.isEven = true → s.crv = true →
    s.holdsPoint ra P → s.holdsPoint rb Q →
    ∃ t R, exec (.padd rd ra rb) s = .next t ∧ t.holdsPoint rd R ∧ s.OnlyRegs t [rd, rd + 1] ∧
      R = pAdd s.curve.cp s.curve.ca P Q ∧
      (P = Point.inf → R = Q) ∧ (Q = Point.inf → R = P) ∧
      (P = Q → exec (.padd rd ra rb) s = exec (.pdbl rd ra) s) ∧
      (P ≠ Point.inf → Q ≠ Point.inf → subValue (2 ^ 160) s.curve.cp.toNat Q.x.toNat P.x.toNat = 0 →
        R = if subValue (2 ^ 160) s.curve.cp.toNat Q.y.toNat P.y.toNat = 0 then pDbl s.curve.cp s.curve.ca P
          else Point.inf) ∧
      (s.curve.cp.toNat.Prime → s.curve.cp.toNat ≠ 2 → P.x.toNat < s.curve.cp.toNat → P.y.toNat < s.curve.cp.toNat →
        Q.x.toNat < s.curve.cp.toNat → Q.y.toNat < s.curve.cp.toNat → P ≠ Point.inf → Q ≠ Point.inf →
        (P.x = Q.x → P.y ≠ Q.y → R = Point.inf) ∧
        (P.x ≠ Q.x → R.x.toNat < s.curve.cp.toNat ∧ R.y.toNat < s.curve.cp.toNat ∧
          ∀ x y x' y' : ZMod s.curve.cp.toNat, IsMontgomeryForm s.curve.cp P.x x → IsMontgomeryForm s.curve.cp P.y y →
            IsMontgomeryForm s.curve.cp Q.x x' → IsMontgomeryForm s.curve.cp Q.y y' →
            ∃ m, m * (x' - x) = y' - y ∧ IsMontgomeryForm s.curve.cp R.x (m ^ 2 - (x + x')) ∧
              IsMontgomeryForm s.curve.cp R.y (m * (x - (m ^ 2 - (x + x'))) - y)))

/-- `PMUL` (R166) writes the result of double-and-add for any point and any scalar (`pMul`, whose recursion
`PmulDoublesAndAdds` states): zero gives infinity, one gives the point, infinity gives infinity, for a scalar of either length;
two scalar registers of different lengths that hold the same integer give the same result. -/
def Obligations.PmulScalars : Prop :=
  (∀ (s : State) (rd ra rb : Reg) (P : Point) (w : Width) (k : Big w.bytes), rd.isEven = true → ra.isEven = true →
    s.crv = true → s.holdsPoint ra P → s.b.get rb = .val w k →
    ∃ t R, exec (.pmul rd ra rb) s = .next t ∧ t.holdsPoint rd R ∧ s.OnlyRegs t [rd, rd + 1] ∧
      R = pMul s.curve.cp s.curve.ca k P ∧
      (k.toNat = 0 → R = Point.inf) ∧ (k.toNat = 1 → R = P) ∧ (P = Point.inf → R = Point.inf)) ∧
  ∀ (s : State) (rd ra rb rc : Reg) (k : Big 20) (k' : Big 21), s.b.get rb = .val .w20 k → s.b.get rc = .val .w21 k' →
    k.toNat = k'.toNat → exec (.pmul rd ra rb) s = exec (.pmul rd ra rc) s

/-- The scalar multiplication is double-and-add (R166): the result for the scalar `2j + bit` is the double of the result
for `j`, with the point added if the bit is 1, whatever the lengths of the two scalars. -/
def Obligations.PmulDoublesAndAdds : Prop :=
  ∀ (n m : Nat) (k : Big n) (j : Big m) (bit : Bool) (p ca : Big 20) (P : Point), k.toNat = 2 * j.toNat + bit.toNat →
    pMul p ca k P =
      if bit then pAdd p ca (pDbl p ca (pMul p ca j P)) P else pDbl p ca (pMul p ca j P)

/-! ### Signature verification -/

/-- `VERIFY` (R180, R181, R183, R186) completes without a fault for any values of the right lengths, writes `V` only, and
rejects components out of the range `0 < r, s < n_ord`; for components in range, whatever the curve, the hash and the point,
the verdict is that of the seven steps of R182 (`verifySteps`). -/
def Obligations.VerifyWritesVerdict : Prop :=
  ∀ (s : State) (rh rq rr rs : Reg) (hash r sig : Big 20) (Q : Point), rq.isEven = true → s.crv = true →
    s.b.get rh = .val .w20 hash → s.holdsPoint rq Q → s.b.get rr = .val .w20 r → s.b.get rs = .val .w20 sig →
    ∃ verdict, exec (.verify rh rq rr rs) s = .next { s with v := verdict, busy := false, done := true } ∧
      (r = 0 ∨ sig = 0 ∨ s.curve.cn.toNat ≤ r.toNat ∨ s.curve.cn.toNat ≤ sig.toNat → verdict = false) ∧
      (r ≠ 0 → sig ≠ 0 → r.toNat < s.curve.cn.toNat → sig.toNat < s.curve.cn.toNat →
        verdict = verifySteps s.curve Q (expand r) (expand sig) hash)

/-- What `VERIFY` accepts (R182): for an odd prime order, `0 < r, s < n_ord` and `hash < 2 n_ord`, with the scalars
`w1 = hash · s⁻¹` and `w2 = r · s⁻¹` mod the order, it accepts exactly when the `x` of `w1·G + w2·Q`, out of Montgomery form
and reduced by one conditional subtraction, is `r`. -/
def Obligations.VerifyAcceptsEcdsa : Prop :=
  ∀ (s : State) (rh rq rr rs : Reg) (hash r sig : Big 20) (Q : Point), rq.isEven = true → s.crv = true →
    s.b.get rh = .val .w20 hash → s.holdsPoint rq Q → s.b.get rr = .val .w20 r → s.b.get rs = .val .w20 sig →
    s.curve.cn.toNat.Prime → s.curve.cn.toNat ≠ 2 → 0 < r.toNat → r.toNat < s.curve.cn.toNat → 0 < sig.toNat →
    sig.toNat < s.curve.cn.toNat → hash.toNat < 2 * s.curve.cn.toNat →
    ∃ w1 w2 : Big 21, w1.toNat < s.curve.cn.toNat ∧ w2.toNat < s.curve.cn.toNat ∧
      w1.toNat * sig.toNat ≡ hash.toNat [MOD s.curve.cn.toNat] ∧
      w2.toNat * sig.toNat ≡ r.toNat [MOD s.curve.cn.toNat] ∧
      ∀ x, x = (pFromMon s.curve.cp (pAdd s.curve.cp s.curve.ca
          (pMul s.curve.cp s.curve.ca w1 ⟨s.curve.cgx, s.curve.cgy⟩)
          (pMul s.curve.cp s.curve.ca w2 (pToMon s.curve.cp Q)))).x.toNat →
        exec (.verify rh rq rr rs) s = .next { s with
          v := decide ((if s.curve.cn.toNat ≤ x then x - s.curve.cn.toNat else x) = r.toNat),
          busy := false, done := true }

/-! ### CMAC -/

/-- `KEYLD` (R190): with length 16 the key is loaded, `KEYV <- 1`, `SKV <- 0`, and `K1`, `K2` keep their bytes. -/
def Obligations.KeyldLoadsKey : Prop :=
  ∀ (s : State) (addr : BitVec 16), addr.toNat + 16 ≤ s.dmemBytes →
    ∃ k : Block, exec (.keyld 16 addr) s = .next { s with key := k, keyv := true, skv := false, busy := false, done := true } ∧
      s.spells addr.toNat (n := 16) k

/-- The doubling is the byte-serial one of R192. `SUBKEY` (R191, R193) derives `K1 = dbl128(AES128_ENC(KEY, 0))` and `K2 = dbl128(K1)`; `SKST` (R194) stores `K1 ‖ K2`. -/
def Obligations.SubkeysDerivedAndStored : Prop :=
  (∀ x : Block, dbl128 x = dblSerial x) ∧
  (∀ s : State, s.keyv = true → exec .subkey s = .next { s with
    k1 := dbl128 (Config.aes128Enc s.key 0), k2 := dbl128 (dbl128 (Config.aes128Enc s.key 0)), skv := true,
    busy := false, done := true }) ∧
  ∀ (s : State) (addr : BitVec 16), s.dmem.wf → s.skv = true → addr.toNat + 32 ≤ s.dmemBytes →
    ∃ t, exec (.skst addr) s = .next t ∧ s.OnlyMem t addr.toNat 32 ∧ t.spells addr.toNat (n := 16) s.k1 ∧
      t.spells (addr.toNat + 16) (n := 16) s.k2

/-- `CMAC16` and `CMAC20` (R197, R198): the MAC of the message bytes is written at the destination, which may overlap the
message, and the subkeys are derived anew; the last 16 bytes of the 20-byte MAC are the 16-byte MAC. -/
def Obligations.CmacWritesMac : Prop :=
  ∀ (s : State) (addr : BitVec 16) (msg : List Byte), s.dmem.wf → s.keyv = true →
    s.msgaddr.toNat + s.msglen.toNat ≤ s.dmemBytes → msg = s.dmem.readBytes s.msgaddr.toNat s.msglen.toNat →
    (addr.toNat + 16 ≤ s.dmemBytes →
      ∃ t, exec (.cmac16 addr) s = .next t ∧ t.dmem.readBytes addr.toNat 16 = mac16 s.key msg ∧
        t = { s with dmem := t.dmem, k1 := t.k1, k2 := t.k2, skv := true, busy := false, done := true } ∧
        t.k1 = dbl128 (Config.aes128Enc s.key 0) ∧ t.k2 = dbl128 t.k1 ∧
        ∀ a, a < addr.toNat ∨ addr.toNat + 16 ≤ a → t.dmem.read a = s.dmem.read a) ∧
    (addr.toNat + 20 ≤ s.dmemBytes → 16 < s.msglen.toNat →
      ∃ t, exec (.cmac20 addr) s = .next t ∧ t.dmem.readBytes addr.toNat 20 = mac20 s.key msg ∧
        (mac20 s.key msg).drop 4 = mac16 s.key msg ∧
        t = { s with dmem := t.dmem, k1 := t.k1, k2 := t.k2, skv := true, busy := false, done := true } ∧
        t.k1 = dbl128 (Config.aes128Enc s.key 0) ∧ t.k2 = dbl128 t.k1 ∧
        ∀ a, a < addr.toNat ∨ addr.toNat + 20 ≤ a → t.dmem.read a = s.dmem.read a)

/-- The MAC is OMAC1 (R195, R196): over whole blocks the last one is folded with `K1`; a rest of 0 to 15 bytes, 0 only for
the empty message, is padded with `0x80` and zeros and folded with `K2`. -/
def Obligations.MacIsOmacOne : Prop :=
  ∀ (key : Block) (blocks : List Block),
    (∀ last : Block, mac16 key ((blocks ++ [last]).flatMap blockBytes) =
      blockBytes (Config.aes128Enc key (last ^^^ (subkeys key).1 ^^^ chainValue key blocks))) ∧
    ∀ tail : List Byte, tail.length < 16 → (tail = [] → blocks = []) →
      mac16 key (blocks.flatMap blockBytes ++ tail) =
        blockBytes (Config.aes128Enc key (blockOf (tail ++ 0x80 :: List.replicate (15 - tail.length) 0)
          ^^^ (subkeys key).2 ^^^ chainValue key blocks))

/-! ### Illegal words -/

/-- A word of a known opcode that breaks a must-be-zero field (R99) faults with `IllegalCommand` and does nothing else. The
masks of the opcode table hold the must-be-zero bits of each command, and the low bits of its point fields (R101). -/
def Obligations.MustBeZeroBitsFault : Prop :=
  ∀ (s : State) (rest : List Event), s.busy = true → s.agenda = .complete :: rest →
    (∃ row ∈ opcodeTable, s.cmd &&& 0xFF000000 = row.1 ∧ s.cmd &&& row.2 ≠ row.1) →
    step s = .next { s with agenda := rest, err := some .illegalCommand, busy := false, done := true }
end

