-- ==== Sys2Proof/Laws/Bytes.lean ====
section
/-!
SUPPORT. Byte strings and numbers correspond (spec/00_scope.md R6), and the loops unfold one pass at a time.
-/

namespace Sys2Proof.Machine

@[simp] theorem strictly_eq {α : Type} {k : Nat} (x : BitVec k) (f : BitVec k → α) : strictly x f = f x := by
  unfold strictly
  split
  · next h => exact congrArg f (BitVec.eq_of_toNat_eq (by simp [h]))
  · next m h =>
    refine congrArg f (BitVec.eq_of_toNat_eq ?_)
    have := x.isLt
    rw [h] at this
    simp [Nat.mod_eq_of_lt this, h]

@[simp] theorem iterate_zero {k : Nat} (body : Nat → BitVec k → BitVec k) (i : Nat) (d : BitVec k) :
    iterate body 0 i d = d := rfl

/-- One pass first. -/
theorem iterate_succ {k : Nat} (body : Nat → BitVec k → BitVec k) (count i : Nat) (d : BitVec k) :
    iterate body (count + 1) i d = iterate body count (i + 1) (body i d) := by
  simp [iterate]

/-- One pass last. -/
theorem iterate_succ_last {k : Nat} (body : Nat → BitVec k → BitVec k) (count i : Nat) (d : BitVec k) :
    iterate body (count + 1) i d = body (i + count) (iterate body count i d) := by
  induction count generalizing i d with
  | zero => simp [iterate_succ]
  | succ c ih =>
    rw [iterate_succ, ih, iterate_succ]
    congr 1
    omega

/-- An invariant of a loop: it holds at the start and every pass keeps it. -/
theorem iterate_induction {k : Nat} {body : Nat → BitVec k → BitVec k} (I : Nat → BitVec k → Prop) (count : Nat)
    {d : BitVec k} (h0 : I 0 d) (hs : ∀ j d, j < count → I j d → I (j + 1) (body j d)) :
    I count (iterate body count 0 d) := by
  induction count with
  | zero => simpa using h0
  | succ c ih =>
    rw [iterate_succ_last, Nat.zero_add]
    exact hs c _ (Nat.lt_succ_self c) (ih fun j d hj => hs j d (Nat.lt_succ_of_lt hj))

@[simp] theorem length_toBytes {n : Nat} (a : Big n) : (toBytes a).length = n := by simp [toBytes]

theorem getElem_toBytes {n : Nat} (a : Big n) (i : Nat) (h : i < (toBytes a).length) :
    (toBytes a)[i] = byteAt a i := by simp [toBytes]

theorem toNat_byteAt {n : Nat} (a : Big n) (i : Nat) :
    (byteAt a i).toNat = a.toNat / 256 ^ (n - 1 - i) % 256 := by
  rw [byteAt, BitVec.extractLsb'_toNat, Nat.shiftRight_eq_div_pow, Nat.pow_mul]

/-- `val` of a string and one more byte. -/
theorem bytesVal_append_singleton (l : List Byte) (x : Byte) : bytesVal (l ++ [x]) = bytesVal l * 256 + x.toNat := by
  simp [bytesVal]

theorem bytesVal_lt (l : List Byte) : bytesVal l < 256 ^ l.length := by
  induction l using List.reverseRecOn with
  | nil => simp [bytesVal]
  | append_singleton l x ih =>
    have := x.isLt
    rw [bytesVal_append_singleton, List.length_append, List.length_singleton, Nat.pow_succ]
    omega

/-- Byte `i` of the number of a string of `n` bytes is entry `i` of the string. -/
theorem bytesVal_digit (l : List Byte) (i : Nat) (h : i < l.length) :
    bytesVal l / 256 ^ (l.length - 1 - i) % 256 = l[i].toNat := by
  induction l using List.reverseRecOn with
  | nil => simp at h
  | append_singleton l x ih =>
    rw [bytesVal_append_singleton]
    have hx := x.isLt
    simp only [List.length_append, List.length_singleton, Nat.add_sub_cancel] at h ⊢
    by_cases hi : i = l.length
    · subst hi
      simp
      omega
    · have hil : i < l.length := by omega
      have he : l.length - i = (l.length - 1 - i) + 1 := by omega
      rw [he, Nat.pow_succ, Nat.mul_comm (256 ^ _) 256, ← Nat.div_div_eq_div_mul,
        show (bytesVal l * 256 + x.toNat) / 256 = bytesVal l by omega, ih hil]
      simp [List.getElem_append_left hil]

theorem toNat_ofBytes (n : Nat) (l : List Byte) (h : l.length = n) : (ofBytes n l).toNat = bytesVal l := by
  have := bytesVal_lt l
  rw [ofBytes, BitVec.toNat_ofNat, Nat.mod_eq_of_lt]
  rwa [Nat.pow_mul, ← h]

/-- Byte `i` of the integer of an `n`-byte string is entry `i` of the string (R6). -/
theorem byteAt_ofBytes (n : Nat) (l : List Byte) (h : l.length = n) (i : Nat) (hi : i < l.length) :
    byteAt (ofBytes n l) i = l[i] := by
  apply BitVec.eq_of_toNat_eq
  rw [toNat_byteAt, toNat_ofBytes n l h, ← bytesVal_digit l i hi, h]

/-- A string of `n` bytes is the string of its integer (R6). -/
theorem toBytes_ofBytes (n : Nat) (l : List Byte) (h : l.length = n) : toBytes (ofBytes n l) = l := by
  apply List.ext_getElem
  · simp [h]
  · intro i h1 h2
    rw [getElem_toBytes, byteAt_ofBytes n l h i h2]

/-- Two integers with the same bytes are equal (R6). -/
theorem eq_of_byteAt_eq {n : Nat} (a b : Big n) (h : ∀ i, i < n → byteAt a i = byteAt b i) : a = b := by
  apply BitVec.eq_of_getLsbD_eq
  intro j hj
  have hi := h (n - 1 - j / 8) (by omega)
  have hb := congrArg (fun x : Byte => x.getLsbD (j % 8)) hi
  simp only [byteAt, BitVec.getLsbD_extractLsb'] at hb
  have he : 8 * (n - 1 - (n - 1 - j / 8)) + j % 8 = j := by omega
  rw [he] at hb
  have h8 : j % 8 < 8 := by omega
  simpa [h8] using hb

/-- An integer is the integer of its byte string (R6). -/
theorem ofBytes_toBytes {n : Nat} (a : Big n) : ofBytes n (toBytes a) = a := by
  apply eq_of_byteAt_eq
  intro i hi
  rw [byteAt_ofBytes n _ (length_toBytes a) i (by simpa using hi), getElem_toBytes]

@[simp] theorem length_slice (l : List Byte) (i j : Nat) (hj : j ≤ l.length) :
    (slice l i j).length = j - i := by simp [slice]; omega

theorem getElem_slice (l : List Byte) (i j k : Nat) (hk : k < (slice l i j).length) :
    (slice l i j)[k] = l[i + k]'(by simp [slice] at hk; omega) := by
  simp [slice]

end Sys2Proof.Machine
end

