-- ==== Sys2Proof/Laws/BigInt.lean ====
section
/-!
SUPPORT. The value of each primitive of the big-integer engine as a number (spec/41_bigint.md R130 to R135).
-/

namespace Sys2Proof.Machine

theorem toNat_addRaw {n : Nat} (a b : Big n) : (addRaw a b).1.toNat = (a.toNat + b.toNat) % 2 ^ (8 * n) := by
  simp [addRaw]

theorem toNat_subRaw {n : Nat} (a b : Big n) :
    (subRaw a b).1.toNat = if b.toNat ≤ a.toNat then a.toNat - b.toNat else a.toNat + 2 ^ (8 * n) - b.toNat := by
  have ha := a.isLt
  have hb := b.isLt
  unfold subRaw
  split
  · rw [BitVec.toNat_ofNat, Nat.mod_eq_of_lt (by omega)]
  · rw [BitVec.toNat_ofNat, Nat.mod_eq_of_lt (by omega)]

theorem subRaw_borrow {n : Nat} (a b : Big n) : (subRaw a b).2 = decide (a.toNat < b.toNat) := by
  unfold subRaw
  split
  · simp; omega
  · simp; omega

theorem bnCmp_isGE {n : Nat} (a b : Big n) : (bnCmp a b).isGE = true ↔ b.toNat ≤ a.toNat := by
  unfold bnCmp
  rw [Nat.isGE_compare]

theorem toNat_bnRed {n : Nat} (d N : Big n) :
    (bnRed d N).toNat = if N.toNat ≤ d.toNat then d.toNat - N.toNat else d.toNat := by
  unfold bnRed
  by_cases h : N.toNat ≤ d.toNat
  · rw [if_pos ((bnCmp_isGE d N).2 h), toNat_subRaw, if_pos h, if_pos h]
  · rw [if_neg (fun h' => h ((bnCmp_isGE d N).1 h')), if_neg h]

/-- `bn_add` for all operands: the wrapped subtraction of `N` after a carry, then one conditional subtraction (R131). -/
theorem toNat_bnAdd {n : Nat} (a b N : Big n) :
    (bnAdd a b N).toNat =
      if N.toNat ≤ (if 2 ^ (8 * n) ≤ a.toNat + b.toNat then (a.toNat + b.toNat - N.toNat) % 2 ^ (8 * n)
          else a.toNat + b.toNat)
      then (if 2 ^ (8 * n) ≤ a.toNat + b.toNat then (a.toNat + b.toNat - N.toNat) % 2 ^ (8 * n)
          else a.toNat + b.toNat) - N.toNat
      else (if 2 ^ (8 * n) ≤ a.toNat + b.toNat then (a.toNat + b.toNat - N.toNat) % 2 ^ (8 * n)
          else a.toNat + b.toNat) := by
  have ha := a.isLt
  have hb := b.isLt
  have hN := N.isLt
  have key : (if (addRaw a b).2 ≠ 0 then (subRaw (addRaw a b).1 N).1 else (addRaw a b).1).toNat =
      if 2 ^ (8 * n) ≤ a.toNat + b.toNat then (a.toNat + b.toNat - N.toNat) % 2 ^ (8 * n) else a.toNat + b.toNat := by
    by_cases hc : 2 ^ (8 * n) ≤ a.toNat + b.toNat
    · have h2 : (addRaw a b).2 ≠ 0 := by
        simp only [addRaw]
        exact Nat.ne_of_gt (Nat.div_pos hc (by omega))
      have h1 : (addRaw a b).1.toNat = a.toNat + b.toNat - 2 ^ (8 * n) := by
        rw [toNat_addRaw, Nat.mod_eq_sub_mod hc, Nat.mod_eq_of_lt (by omega)]
      rw [if_pos h2, if_pos hc, toNat_subRaw, h1]
      split
      · rw [Nat.mod_eq_sub_mod (by omega), Nat.mod_eq_of_lt (by omega)]; omega
      · rw [Nat.mod_eq_of_lt (by omega)]; omega
    · have h2 : (addRaw a b).2 = 0 := Nat.div_eq_of_lt (by omega)
      rw [if_neg (not_not.2 h2), if_neg hc, toNat_addRaw, Nat.mod_eq_of_lt (by omega)]
  rw [← key, ← toNat_bnRed]
  rfl

/-- `bn_subm` for all operands: `N` added back, wrapped, after a borrow (R134). -/
theorem toNat_bnSubm {n : Nat} (a b N : Big n) :
    (bnSubm a b N).toNat = if b.toNat ≤ a.toNat then a.toNat - b.toNat
      else (a.toNat + 2 ^ (8 * n) - b.toNat + N.toNat) % 2 ^ (8 * n) := by
  change (if (subRaw a b).2 then (addRaw (subRaw a b).1 N).1 else (subRaw a b).1).toNat = _
  rw [subRaw_borrow]
  by_cases h : b.toNat ≤ a.toNat
  · rw [if_neg (by simpa using h), if_pos h, toNat_subRaw, if_pos h]
  · rw [if_pos (by simpa using h), if_neg h, toNat_addRaw, toNat_subRaw, if_neg h]

/-- The inverse table is the one R33 defines: `(INV[i] * (2i + 1) + 1) mod 256 = 0`. -/
theorem invEntry_spec : ∀ i, i < 128 → ((invEntry i).toNat * (2 * i + 1) + 1) % 256 = 0 := by decide +kernel

end Sys2Proof.Machine
end

