-- ==== Sys2Proof/Laws/Memory.lean ====
section
/-!
SUPPORT. The laws of the operand memory: what a read gives after a write, and that every operation keeps the canonical form.
-/

namespace Sys2Proof.Machine

/-- An address below every listed one is unlisted. -/
theorem Memory.read_of_lt (m : Memory) (a : Nat) (h : ∀ c ∈ m, a < c.1) : m.read a = Memory.unlisted := by
  induction m with
  | nil => rfl
  | cons c m ih =>
    obtain ⟨a', x⟩ := c
    have h1 := h (a', x) (by simp)
    rw [Memory.read, if_neg (by simp at h1; omega)]
    exact ih fun c hc => h c (by simp [hc])

/-- A read after a write gives the value written at that address, and every other address is left alone. -/
theorem Memory.read_write (m : Memory) (hm : m.wf) (a a' : Nat) (x : Byte) :
    (m.write a x).read a' = if a' = a then x else m.read a' := by
  induction m with
  | nil => by_cases hx : x = Memory.unlisted <;> simp [Memory.write, Memory.read, hx]
  | cons c m ih =>
    obtain ⟨b, y⟩ := c
    obtain ⟨hp, hv⟩ := hm
    rw [List.pairwise_cons] at hp
    have hlt : ∀ c ∈ m, b < c.1 := fun c hc => hp.1 c hc
    have htail : Memory.wf m := ⟨hp.2, fun c hc => hv c (by simp [hc])⟩
    rw [Memory.write]
    by_cases h1 : a < b
    · have hm' : Memory.read m a = Memory.unlisted := Memory.read_of_lt m a fun c hc => by have := hlt c hc; omega
      by_cases hx : x = Memory.unlisted
      · rw [if_pos h1, if_pos hx]
        by_cases ha : a' = a
        · subst ha; rw [if_pos rfl, Memory.read, if_neg (by omega), hm', hx]
        · rw [if_neg ha]
      · rw [if_pos h1, if_neg hx, Memory.read]
    · rw [if_neg h1]
      by_cases h2 : a = b
      · subst h2
        have hm' : Memory.read m a = Memory.unlisted := Memory.read_of_lt m a hlt
        rw [if_pos rfl]
        by_cases hx : x = Memory.unlisted
        · rw [if_pos hx]
          by_cases ha : a' = a
          · subst ha; rw [if_pos rfl, hm', hx]
          · rw [if_neg ha, Memory.read, if_neg ha]
        · rw [if_neg hx, Memory.read, Memory.read]
          by_cases ha : a' = a <;> simp [ha]
      · rw [if_neg h2, Memory.read, ih htail, Memory.read]
        by_cases ha : a' = a
        · subst ha; simp [h2]
        · simp [ha]

/-- The cells of a memory after a write are the written cell and cells of the memory before. -/
theorem Memory.mem_write (m : Memory) (a : Nat) (x : Byte) (c : Host.Cell) (h : c ∈ m.write a x) :
    c = (a, x) ∧ x ≠ Memory.unlisted ∨ c ∈ m := by
  induction m with
  | nil =>
    rw [Memory.write] at h
    split at h
    · simp at h
    · next hx => exact .inl ⟨by simpa using h, hx⟩
  | cons d m ih =>
    obtain ⟨b, y⟩ := d
    rw [Memory.write] at h
    split at h
    · split at h
      · exact .inr h
      · next hx =>
        rcases List.mem_cons.1 h with h | h
        · exact .inl ⟨h, hx⟩
        · exact .inr h
    · split at h
      · split at h
        · exact .inr (by simp [h])
        · next hx =>
          rcases List.mem_cons.1 h with h | h
          · exact .inl ⟨h, hx⟩
          · exact .inr (by simp [h])
      · rcases List.mem_cons.1 h with h | h
        · exact .inr (by simp [h])
        · rcases ih h with h | h
          · exact .inl h
          · exact .inr (by simp [h])

/-- A write keeps the canonical form. -/
theorem Memory.wf_write (m : Memory) (hm : m.wf) (a : Nat) (x : Byte) : (m.write a x).wf := by
  refine ⟨?_, ?_⟩
  · induction m with
    | nil => rw [Memory.write]; split <;> simp
    | cons c m ih =>
      obtain ⟨b, y⟩ := c
      have hp := List.pairwise_cons.1 hm.1
      have htail : Memory.wf m := ⟨hp.2, fun c hc => hm.2 c (by simp [hc])⟩
      rw [Memory.write]
      split
      · next h1 =>
        split
        · exact hm.1
        · refine List.pairwise_cons.2 ⟨?_, hm.1⟩
          intro c hc
          rcases List.mem_cons.1 hc with hc | hc
          · subst hc; exact h1
          · exact Nat.lt_trans h1 (hp.1 c hc)
      · next h1 =>
        split
        · next h2 =>
          split
          · exact hp.2
          · subst h2; exact List.pairwise_cons.2 ⟨fun c hc => hp.1 c hc, hp.2⟩
        · next h2 =>
          refine List.pairwise_cons.2 ⟨?_, ih htail⟩
          intro c hc
          rcases Memory.mem_write m a x c hc with ⟨hc, -⟩ | hc
          · subst hc; change b < a; omega
          · exact hp.1 c hc
  · intro c hc
    rcases Memory.mem_write m a x c hc with ⟨hc, hx⟩ | hc
    · subst hc; exact hx
    · exact hm.2 c hc

/-- Storing a byte string keeps the canonical form. -/
theorem Memory.wf_writeBytes (m : Memory) (hm : m.wf) (a : Nat) (l : List Byte) : (m.writeBytes a l).wf := by
  induction l generalizing m a with
  | nil => exact hm
  | cons x l ih => exact ih _ (Memory.wf_write m hm a x) _

/-- Every listed address stays in range when what is stored lies in range. -/
theorem Memory.inRange_writeBytes (m : Memory) (n a : Nat) (l : List Byte) (hm : ∀ c ∈ m, c.1 < n)
    (h : a + l.length ≤ n) : ∀ c ∈ m.writeBytes a l, c.1 < n := by
  induction l generalizing m a with
  | nil => exact hm
  | cons x l ih =>
    rw [List.length_cons] at h
    refine ih _ _ ?_ (by omega)
    intro c hc
    rcases Memory.mem_write m a x c hc with ⟨hc, -⟩ | hc
    · subst hc; change a < n; omega
    · exact hm c hc

/-- A memory made of listed cells is canonical and in range. -/
theorem Memory.ofCells_sound (n : Nat) (cells : List Host.Cell) :
    (Memory.ofCells n cells).wf ∧ ∀ c ∈ Memory.ofCells n cells, c.1 < n := by
  suffices h : ∀ m : Memory, m.wf → (∀ c ∈ m, c.1 < n) →
      Memory.wf (cells.foldl (fun m c => if c.1 < n then m.write c.1 c.2 else m) m) ∧
      ∀ c ∈ cells.foldl (fun m c => if c.1 < n then m.write c.1 c.2 else m) m, c.1 < n from
    h [] ⟨.nil, by simp⟩ (by simp)
  induction cells with
  | nil => exact fun m h1 h2 => ⟨h1, h2⟩
  | cons d cells ih =>
    intro m h1 h2
    rw [List.foldl_cons]
    split
    · next hd =>
      refine ih _ (Memory.wf_write m h1 d.1 d.2) ?_
      intro c hc
      rcases Memory.mem_write m d.1 d.2 c hc with ⟨hc, -⟩ | hc
      · subst hc; exact hd
      · exact h2 c hc
    · exact ih m h1 h2

/-- A byte after storing a byte string: the string's byte inside its range, the old byte outside. -/
theorem Memory.read_writeBytes (m : Memory) (hm : m.wf) (a : Nat) (l : List Byte) (a' : Nat) :
    (m.writeBytes a l).read a' =
      if h : a ≤ a' ∧ a' < a + l.length then l[a' - a]'(by omega) else m.read a' := by
  induction l generalizing m a with
  | nil => rw [dif_neg (by simp)]; rfl
  | cons x l ih =>
    rw [Memory.writeBytes, ih _ (Memory.wf_write m hm a x), Memory.read_write m hm]
    simp only [List.length_cons]
    by_cases h1 : a' = a
    · subst h1
      rw [dif_neg (by omega), if_pos rfl, dif_pos (by omega)]
      simp
    · by_cases h2 : a ≤ a' ∧ a' < a + (l.length + 1)
      · rw [dif_pos (by omega), dif_pos h2]
        simp [show a' - a = (a' - (a + 1)) + 1 by omega]
      · rw [dif_neg (by omega), dif_neg h2, if_neg h1]

@[simp] theorem Memory.length_readBytes (m : Memory) (a n : Nat) : (m.readBytes a n).length = n := by
  simp [Memory.readBytes]

theorem Memory.getElem_readBytes (m : Memory) (a n i : Nat) (h : i < (m.readBytes a n).length) :
    (m.readBytes a n)[i] = m.read (a + i) := by simp [Memory.readBytes]

end Sys2Proof.Machine
end

