-- ==== Sys2Proof/Laws/Operands.lean ====
section
/-!
SUPPORT. What each shared operation of a command can do, said once: reading an operand, checking a range, the ends of a
command.
-/

namespace Sys2Proof.Machine

/-! ### Sequencing of checks -/

/-- A sequence that succeeds: its first part did, and the rest did from there. -/
theorem bind_eq_ok {α β : Type} {x : Except FaultCode α} {f : α → Except FaultCode β} {y : β} :
    (x >>= f) = .ok y ↔ ∃ a, x = .ok a ∧ f a = .ok y := by
  cases x <;> simp [bind, Except.bind]

/-- A sequence that faults: its first part did, or the rest did. -/
theorem bind_eq_error {α β : Type} {x : Except FaultCode α} {f : α → Except FaultCode β} {c : FaultCode} :
    (x >>= f) = .error c ↔ x = .error c ∨ ∃ a, x = .ok a ∧ f a = .error c := by
  cases x <;> simp [bind, Except.bind]

@[simp] theorem bind_ok {α β : Type} (a : α) (f : α → Except FaultCode β) : (Except.ok a >>= f) = f a := rfl

@[simp] theorem bind_error {α β : Type} (c : FaultCode) (f : α → Except FaultCode β) :
    (Except.error c >>= f) = .error c := rfl

@[simp] theorem pure_eq_ok {α : Type} (a : α) : (pure a : Except FaultCode α) = .ok a := rfl

/-! ### The ends of a command -/

@[simp] theorem State.finish_ok (s t : State) : s.finish (.ok t) = .next t.retire := rfl

@[simp] theorem State.finish_error (s : State) (c : FaultCode) : s.finish (.error c) = .next (s.raise c) := rfl

/-- A command ends with all its writes or with a fault. -/
theorem State.finish_eq_next {s t : State} {r : Except FaultCode State} (h : s.finish r = .next t) :
    (∃ u, r = .ok u ∧ t = u.retire) ∨ ∃ c, r = .error c ∧ t = s.raise c := by
  cases r with
  | ok u => exact .inl ⟨u, rfl, by simpa using h.symm⟩
  | error c => exact .inr ⟨c, rfl, by simpa using h.symm⟩

/-! ### Checks -/

@[simp] theorem require_true (c : FaultCode) : require true c = .ok () := rfl

@[simp] theorem require_false (c : FaultCode) : require false c = .error c := rfl

theorem require_eq_ok {ok : Bool} {c : FaultCode} {u : Unit} : require ok c = .ok u ↔ ok = true := by
  cases ok <;> simp

theorem requirePairs_eq_ok {l : List Reg} {u : Unit} : requirePairs l = .ok u ↔ ∀ r ∈ l, Reg.isEven r = true := by
  simp [requirePairs, require_eq_ok]

theorem orFault_eq_ok {α : Type} {c : FaultCode} {o : Option α} {a : α} : orFault c o = .ok a ↔ o = some a := by
  cases o <;> simp [orFault]

/-! ### Registers -/

@[simp] theorem BigReg.read_val (w : Width) (x : Big w.bytes) : BigReg.read w (.val w x) = some x := by
  cases w <;> rfl

/-- A register that reads at a width holds that width's value. -/
theorem BigReg.read_eq_some {w : Width} {r : BigReg} {x : Big w.bytes} : BigReg.read w r = some x ↔ r = .val w x := by
  cases r with
  | empty => cases w <;> simp [BigReg.read]
  | val w' y => cases w <;> cases w' <;> simp [BigReg.read]

theorem State.operand_eq_ok {s : State} {c : FaultCode} {w : Width} {r : Reg} {x : Big w.bytes} :
    s.operand c w r = .ok x ↔ s.b.get r = .val w x := by
  rw [State.operand, orFault_eq_ok, BigReg.read_eq_some]

/-- An operand faults, with the command's own code, exactly when its tag does not match (R22). -/
theorem State.operand_eq_error {s : State} {c d : FaultCode} {w : Width} {r : Reg} :
    s.operand c w r = .error d ↔ d = c ∧ BigReg.read w (s.b.get r) = none := by
  unfold State.operand orFault
  cases BigReg.read w (s.b.get r) <;> simp [eq_comm]

theorem State.operand20_eq_ok {s : State} {c : FaultCode} {r : Reg} {x : Big 20} :
    s.operand20 c r = .ok x ↔ s.b.get r = .val .w20 x := State.operand_eq_ok

theorem State.operand20_eq_error {s : State} {c d : FaultCode} {r : Reg} :
    s.operand20 c r = .error d ↔ d = c ∧ BigReg.read .w20 (s.b.get r) = none := State.operand_eq_error

theorem State.operandBytes_eq_ok {s : State} {r : Reg} {l : List Byte} :
    s.operandBytes r = .ok l ↔ ∃ w x, s.b.get r = .val w x ∧ l = toBytes x := by
  rw [State.operandBytes, orFault_eq_ok]
  cases s.b.get r with
  | empty => simp [BigReg.bytes?]
  | val w x =>
    simp only [BigReg.bytes?, Option.some.injEq]
    exact ⟨fun h => ⟨w, x, rfl, h.symm⟩, fun ⟨_, _, h, hl⟩ => by cases h; exact hl.symm⟩

theorem State.operandScalar_eq_ok {s : State} {r : Reg} {k : Scalar} :
    s.operandScalar r = .ok k ↔ s.b.get r = .val k.1 k.2 := by
  obtain ⟨w, x⟩ := k
  rw [State.operandScalar, orFault_eq_ok]
  cases s.b.get r <;> simp [BigReg.scalar?]

theorem State.operandPoint_eq_ok {s : State} {c : FaultCode} {k : Reg} {P : Point} :
    s.operandPoint c k = .ok P ↔ s.b.get k = .val .w20 P.x ∧ s.b.get (k + 1) = .val .w20 P.y := by
  obtain ⟨x, y⟩ := P
  unfold State.operandPoint
  rw [bind_eq_ok]
  simp only [bind_eq_ok, State.operand20_eq_ok, pure_eq_ok, Except.ok.injEq]
  constructor
  · rintro ⟨a, ha, b, hb, h⟩; cases h; exact ⟨ha, hb⟩
  · rintro ⟨ha, hb⟩; exact ⟨x, ha, y, hb, rfl⟩

theorem State.operandCurve_eq_ok {s : State} {k : CurveContext} :
    s.operandCurve = .ok k ↔ s.crv = true ∧ k = s.curve := by
  unfold State.operandCurve
  cases s.crv <;> simp [eq_comm]

theorem State.operandKey_eq_ok {s : State} {k : Block} : s.operandKey = .ok k ↔ s.keyv = true ∧ k = s.key := by
  unfold State.operandKey
  cases s.keyv <;> simp [eq_comm]

theorem State.operandSubkeys_eq_ok {s : State} {k : Block × Block} :
    s.operandSubkeys = .ok k ↔ s.skv = true ∧ k = (s.k1, s.k2) := by
  unfold State.operandSubkeys
  cases s.skv <;> simp [eq_comm]

/-! ### Memory -/

theorem State.checkRange_eq_ok {s : State} {a n : Nat} {u : Unit} : s.checkRange a n = .ok u ↔ a + n ≤ s.dmemBytes := by
  unfold State.checkRange
  split <;> simp [*]

theorem State.checkRange_eq_error {s : State} {a n : Nat} {c : FaultCode} :
    s.checkRange a n = .error c ↔ c = .addressRange ∧ s.dmemBytes < a + n := by
  unfold State.checkRange
  split
  · simp; omega
  · simp [eq_comm]; omega

theorem State.memRead_eq_ok {s : State} {a n : Nat} {l : List Byte} :
    s.memRead a n = .ok l ↔ a + n ≤ s.dmemBytes ∧ l = s.dmem.readBytes a n := by
  unfold State.memRead
  rw [bind_eq_ok]
  simp [State.checkRange_eq_ok, eq_comm (a := l)]

theorem State.memRead_eq_error {s : State} {a n : Nat} {c : FaultCode} :
    s.memRead a n = .error c ↔ c = .addressRange ∧ s.dmemBytes < a + n := by
  unfold State.memRead
  rw [bind_eq_error]
  simp [State.checkRange_eq_error]

theorem State.memWrite_eq_ok {s t : State} {a : Nat} {l : List Byte} :
    s.memWrite a l = .ok t ↔ a + l.length ≤ s.dmemBytes ∧ t = s.storeBytes a l := by
  unfold State.memWrite
  rw [bind_eq_ok]
  simp [State.checkRange_eq_ok, eq_comm (a := t)]

theorem State.memWrite_eq_error {s : State} {a : Nat} {l : List Byte} {c : FaultCode} :
    s.memWrite a l = .error c ↔ c = .addressRange ∧ s.dmemBytes < a + l.length := by
  unfold State.memWrite
  rw [bind_eq_error]
  simp [State.checkRange_eq_error]

/-! ### Reading the registers after a write -/

/-- A register after a register write: the written one, or the old one. -/
theorem State.setReg_get (s : State) (i j : Reg) (r : BigReg) :
    (s.setReg i r).b.get j = if j = i then r else s.b.get j := by
  unfold State.setReg
  simp only [Vector.get_eq_getElem, Vector.getElem_set]
  by_cases h : i = j
  · subst h; simp
  · rw [if_neg (fun e => h (Fin.ext e)), if_neg (fun e => h e.symm)]

/-- The two registers of a pair are different. -/
theorem Reg.succ_ne (k : Reg) : k + 1 ≠ k := by decide +revert

/-- A register after a pair write: the pair's coordinates, or the old one. -/
theorem State.setPair_get (s : State) (k j : Reg) (p : Point) :
    (s.setPair k p).b.get j = if j = k + 1 then .val .w20 p.y else if j = k then .val .w20 p.x else s.b.get j := by
  unfold State.setPair
  rw [State.setReg_get, State.setReg_get]

end Sys2Proof.Machine
end

