-- ==== Sys2Proof/Laws/State.lean ====
section
/-!
SUPPORT. What each named update of the state leaves in each field: one lemma per field per update, so that no proof unfolds
an update.
-/

namespace Sys2Proof.Machine

/-! ### `State.setReg` -/

@[simp] theorem State.setReg_b (s : State) (i : Reg) (r : BigReg) : (s.setReg i r).b = s.b.set i.val r i.isLt := rfl
@[simp] theorem State.setReg_v (s : State) (i : Reg) (r : BigReg) : (s.setReg i r).v = s.v := rfl
@[simp] theorem State.setReg_borrow (s : State) (i : Reg) (r : BigReg) : (s.setReg i r).borrow = s.borrow := rfl
@[simp] theorem State.setReg_cmp (s : State) (i : Reg) (r : BigReg) : (s.setReg i r).cmp = s.cmp := rfl
@[simp] theorem State.setReg_curve (s : State) (i : Reg) (r : BigReg) : (s.setReg i r).curve = s.curve := rfl
@[simp] theorem State.setReg_crv (s : State) (i : Reg) (r : BigReg) : (s.setReg i r).crv = s.crv := rfl
@[simp] theorem State.setReg_key (s : State) (i : Reg) (r : BigReg) : (s.setReg i r).key = s.key := rfl
@[simp] theorem State.setReg_keyv (s : State) (i : Reg) (r : BigReg) : (s.setReg i r).keyv = s.keyv := rfl
@[simp] theorem State.setReg_k1 (s : State) (i : Reg) (r : BigReg) : (s.setReg i r).k1 = s.k1 := rfl
@[simp] theorem State.setReg_k2 (s : State) (i : Reg) (r : BigReg) : (s.setReg i r).k2 = s.k2 := rfl
@[simp] theorem State.setReg_skv (s : State) (i : Reg) (r : BigReg) : (s.setReg i r).skv = s.skv := rfl
@[simp] theorem State.setReg_cmd (s : State) (i : Reg) (r : BigReg) : (s.setReg i r).cmd = s.cmd := rfl
@[simp] theorem State.setReg_busy (s : State) (i : Reg) (r : BigReg) : (s.setReg i r).busy = s.busy := rfl
@[simp] theorem State.setReg_done (s : State) (i : Reg) (r : BigReg) : (s.setReg i r).done = s.done := rfl
@[simp] theorem State.setReg_ovr (s : State) (i : Reg) (r : BigReg) : (s.setReg i r).ovr = s.ovr := rfl
@[simp] theorem State.setReg_err (s : State) (i : Reg) (r : BigReg) : (s.setReg i r).err = s.err := rfl
@[simp] theorem State.setReg_ie (s : State) (i : Reg) (r : BigReg) : (s.setReg i r).ie = s.ie := rfl
@[simp] theorem State.setReg_msgaddr (s : State) (i : Reg) (r : BigReg) : (s.setReg i r).msgaddr = s.msgaddr := rfl
@[simp] theorem State.setReg_msglen (s : State) (i : Reg) (r : BigReg) : (s.setReg i r).msglen = s.msglen := rfl
@[simp] theorem State.setReg_dmem (s : State) (i : Reg) (r : BigReg) : (s.setReg i r).dmem = s.dmem := rfl
@[simp] theorem State.setReg_dmemBytes (s : State) (i : Reg) (r : BigReg) : (s.setReg i r).dmemBytes = s.dmemBytes := rfl
@[simp] theorem State.setReg_agenda (s : State) (i : Reg) (r : BigReg) : (s.setReg i r).agenda = s.agenda := rfl
@[simp] theorem State.setReg_resp (s : State) (i : Reg) (r : BigReg) : (s.setReg i r).resp = s.resp := rfl

/-! ### `State.setPair` -/

@[simp] theorem State.setPair_b (s : State) (k : Reg) (p : Point) : (s.setPair k p).b = (s.b.set k.val (.val .w20 p.x) k.isLt).set (k + 1).val (.val .w20 p.y) (k + 1).isLt := rfl
@[simp] theorem State.setPair_v (s : State) (k : Reg) (p : Point) : (s.setPair k p).v = s.v := rfl
@[simp] theorem State.setPair_borrow (s : State) (k : Reg) (p : Point) : (s.setPair k p).borrow = s.borrow := rfl
@[simp] theorem State.setPair_cmp (s : State) (k : Reg) (p : Point) : (s.setPair k p).cmp = s.cmp := rfl
@[simp] theorem State.setPair_curve (s : State) (k : Reg) (p : Point) : (s.setPair k p).curve = s.curve := rfl
@[simp] theorem State.setPair_crv (s : State) (k : Reg) (p : Point) : (s.setPair k p).crv = s.crv := rfl
@[simp] theorem State.setPair_key (s : State) (k : Reg) (p : Point) : (s.setPair k p).key = s.key := rfl
@[simp] theorem State.setPair_keyv (s : State) (k : Reg) (p : Point) : (s.setPair k p).keyv = s.keyv := rfl
@[simp] theorem State.setPair_k1 (s : State) (k : Reg) (p : Point) : (s.setPair k p).k1 = s.k1 := rfl
@[simp] theorem State.setPair_k2 (s : State) (k : Reg) (p : Point) : (s.setPair k p).k2 = s.k2 := rfl
@[simp] theorem State.setPair_skv (s : State) (k : Reg) (p : Point) : (s.setPair k p).skv = s.skv := rfl
@[simp] theorem State.setPair_cmd (s : State) (k : Reg) (p : Point) : (s.setPair k p).cmd = s.cmd := rfl
@[simp] theorem State.setPair_busy (s : State) (k : Reg) (p : Point) : (s.setPair k p).busy = s.busy := rfl
@[simp] theorem State.setPair_done (s : State) (k : Reg) (p : Point) : (s.setPair k p).done = s.done := rfl
@[simp] theorem State.setPair_ovr (s : State) (k : Reg) (p : Point) : (s.setPair k p).ovr = s.ovr := rfl
@[simp] theorem State.setPair_err (s : State) (k : Reg) (p : Point) : (s.setPair k p).err = s.err := rfl
@[simp] theorem State.setPair_ie (s : State) (k : Reg) (p : Point) : (s.setPair k p).ie = s.ie := rfl
@[simp] theorem State.setPair_msgaddr (s : State) (k : Reg) (p : Point) : (s.setPair k p).msgaddr = s.msgaddr := rfl
@[simp] theorem State.setPair_msglen (s : State) (k : Reg) (p : Point) : (s.setPair k p).msglen = s.msglen := rfl
@[simp] theorem State.setPair_dmem (s : State) (k : Reg) (p : Point) : (s.setPair k p).dmem = s.dmem := rfl
@[simp] theorem State.setPair_dmemBytes (s : State) (k : Reg) (p : Point) : (s.setPair k p).dmemBytes = s.dmemBytes := rfl
@[simp] theorem State.setPair_agenda (s : State) (k : Reg) (p : Point) : (s.setPair k p).agenda = s.agenda := rfl
@[simp] theorem State.setPair_resp (s : State) (k : Reg) (p : Point) : (s.setPair k p).resp = s.resp := rfl

/-! ### `State.storeBytes` -/

@[simp] theorem State.storeBytes_b (s : State) (a : Nat) (l : List Byte) : (s.storeBytes a l).b = s.b := rfl
@[simp] theorem State.storeBytes_v (s : State) (a : Nat) (l : List Byte) : (s.storeBytes a l).v = s.v := rfl
@[simp] theorem State.storeBytes_borrow (s : State) (a : Nat) (l : List Byte) : (s.storeBytes a l).borrow = s.borrow := rfl
@[simp] theorem State.storeBytes_cmp (s : State) (a : Nat) (l : List Byte) : (s.storeBytes a l).cmp = s.cmp := rfl
@[simp] theorem State.storeBytes_curve (s : State) (a : Nat) (l : List Byte) : (s.storeBytes a l).curve = s.curve := rfl
@[simp] theorem State.storeBytes_crv (s : State) (a : Nat) (l : List Byte) : (s.storeBytes a l).crv = s.crv := rfl
@[simp] theorem State.storeBytes_key (s : State) (a : Nat) (l : List Byte) : (s.storeBytes a l).key = s.key := rfl
@[simp] theorem State.storeBytes_keyv (s : State) (a : Nat) (l : List Byte) : (s.storeBytes a l).keyv = s.keyv := rfl
@[simp] theorem State.storeBytes_k1 (s : State) (a : Nat) (l : List Byte) : (s.storeBytes a l).k1 = s.k1 := rfl
@[simp] theorem State.storeBytes_k2 (s : State) (a : Nat) (l : List Byte) : (s.storeBytes a l).k2 = s.k2 := rfl
@[simp] theorem State.storeBytes_skv (s : State) (a : Nat) (l : List Byte) : (s.storeBytes a l).skv = s.skv := rfl
@[simp] theorem State.storeBytes_cmd (s : State) (a : Nat) (l : List Byte) : (s.storeBytes a l).cmd = s.cmd := rfl
@[simp] theorem State.storeBytes_busy (s : State) (a : Nat) (l : List Byte) : (s.storeBytes a l).busy = s.busy := rfl
@[simp] theorem State.storeBytes_done (s : State) (a : Nat) (l : List Byte) : (s.storeBytes a l).done = s.done := rfl
@[simp] theorem State.storeBytes_ovr (s : State) (a : Nat) (l : List Byte) : (s.storeBytes a l).ovr = s.ovr := rfl
@[simp] theorem State.storeBytes_err (s : State) (a : Nat) (l : List Byte) : (s.storeBytes a l).err = s.err := rfl
@[simp] theorem State.storeBytes_ie (s : State) (a : Nat) (l : List Byte) : (s.storeBytes a l).ie = s.ie := rfl
@[simp] theorem State.storeBytes_msgaddr (s : State) (a : Nat) (l : List Byte) : (s.storeBytes a l).msgaddr = s.msgaddr := rfl
@[simp] theorem State.storeBytes_msglen (s : State) (a : Nat) (l : List Byte) : (s.storeBytes a l).msglen = s.msglen := rfl
@[simp] theorem State.storeBytes_dmem (s : State) (a : Nat) (l : List Byte) : (s.storeBytes a l).dmem = s.dmem.writeBytes a l := rfl
@[simp] theorem State.storeBytes_dmemBytes (s : State) (a : Nat) (l : List Byte) : (s.storeBytes a l).dmemBytes = s.dmemBytes := rfl
@[simp] theorem State.storeBytes_agenda (s : State) (a : Nat) (l : List Byte) : (s.storeBytes a l).agenda = s.agenda := rfl
@[simp] theorem State.storeBytes_resp (s : State) (a : Nat) (l : List Byte) : (s.storeBytes a l).resp = s.resp := rfl

/-! ### `State.retire` -/

@[simp] theorem State.retire_b (s : State) : (s.retire).b = s.b := rfl
@[simp] theorem State.retire_v (s : State) : (s.retire).v = s.v := rfl
@[simp] theorem State.retire_borrow (s : State) : (s.retire).borrow = s.borrow := rfl
@[simp] theorem State.retire_cmp (s : State) : (s.retire).cmp = s.cmp := rfl
@[simp] theorem State.retire_curve (s : State) : (s.retire).curve = s.curve := rfl
@[simp] theorem State.retire_crv (s : State) : (s.retire).crv = s.crv := rfl
@[simp] theorem State.retire_key (s : State) : (s.retire).key = s.key := rfl
@[simp] theorem State.retire_keyv (s : State) : (s.retire).keyv = s.keyv := rfl
@[simp] theorem State.retire_k1 (s : State) : (s.retire).k1 = s.k1 := rfl
@[simp] theorem State.retire_k2 (s : State) : (s.retire).k2 = s.k2 := rfl
@[simp] theorem State.retire_skv (s : State) : (s.retire).skv = s.skv := rfl
@[simp] theorem State.retire_cmd (s : State) : (s.retire).cmd = s.cmd := rfl
@[simp] theorem State.retire_busy (s : State) : (s.retire).busy = false := rfl
@[simp] theorem State.retire_done (s : State) : (s.retire).done = true := rfl
@[simp] theorem State.retire_ovr (s : State) : (s.retire).ovr = s.ovr := rfl
@[simp] theorem State.retire_err (s : State) : (s.retire).err = s.err := rfl
@[simp] theorem State.retire_ie (s : State) : (s.retire).ie = s.ie := rfl
@[simp] theorem State.retire_msgaddr (s : State) : (s.retire).msgaddr = s.msgaddr := rfl
@[simp] theorem State.retire_msglen (s : State) : (s.retire).msglen = s.msglen := rfl
@[simp] theorem State.retire_dmem (s : State) : (s.retire).dmem = s.dmem := rfl
@[simp] theorem State.retire_dmemBytes (s : State) : (s.retire).dmemBytes = s.dmemBytes := rfl
@[simp] theorem State.retire_agenda (s : State) : (s.retire).agenda = s.agenda := rfl
@[simp] theorem State.retire_resp (s : State) : (s.retire).resp = s.resp := rfl

/-! ### `State.raise` -/

@[simp] theorem State.raise_b (s : State) (c : FaultCode) : (s.raise c).b = s.b := rfl
@[simp] theorem State.raise_v (s : State) (c : FaultCode) : (s.raise c).v = s.v := rfl
@[simp] theorem State.raise_borrow (s : State) (c : FaultCode) : (s.raise c).borrow = s.borrow := rfl
@[simp] theorem State.raise_cmp (s : State) (c : FaultCode) : (s.raise c).cmp = s.cmp := rfl
@[simp] theorem State.raise_curve (s : State) (c : FaultCode) : (s.raise c).curve = s.curve := rfl
@[simp] theorem State.raise_crv (s : State) (c : FaultCode) : (s.raise c).crv = s.crv := rfl
@[simp] theorem State.raise_key (s : State) (c : FaultCode) : (s.raise c).key = s.key := rfl
@[simp] theorem State.raise_keyv (s : State) (c : FaultCode) : (s.raise c).keyv = s.keyv := rfl
@[simp] theorem State.raise_k1 (s : State) (c : FaultCode) : (s.raise c).k1 = s.k1 := rfl
@[simp] theorem State.raise_k2 (s : State) (c : FaultCode) : (s.raise c).k2 = s.k2 := rfl
@[simp] theorem State.raise_skv (s : State) (c : FaultCode) : (s.raise c).skv = s.skv := rfl
@[simp] theorem State.raise_cmd (s : State) (c : FaultCode) : (s.raise c).cmd = s.cmd := rfl
@[simp] theorem State.raise_busy (s : State) (c : FaultCode) : (s.raise c).busy = false := rfl
@[simp] theorem State.raise_done (s : State) (c : FaultCode) : (s.raise c).done = true := rfl
@[simp] theorem State.raise_ovr (s : State) (c : FaultCode) : (s.raise c).ovr = s.ovr := rfl
@[simp] theorem State.raise_err (s : State) (c : FaultCode) : (s.raise c).err = some c := rfl
@[simp] theorem State.raise_ie (s : State) (c : FaultCode) : (s.raise c).ie = s.ie := rfl
@[simp] theorem State.raise_msgaddr (s : State) (c : FaultCode) : (s.raise c).msgaddr = s.msgaddr := rfl
@[simp] theorem State.raise_msglen (s : State) (c : FaultCode) : (s.raise c).msglen = s.msglen := rfl
@[simp] theorem State.raise_dmem (s : State) (c : FaultCode) : (s.raise c).dmem = s.dmem := rfl
@[simp] theorem State.raise_dmemBytes (s : State) (c : FaultCode) : (s.raise c).dmemBytes = s.dmemBytes := rfl
@[simp] theorem State.raise_agenda (s : State) (c : FaultCode) : (s.raise c).agenda = s.agenda := rfl
@[simp] theorem State.raise_resp (s : State) (c : FaultCode) : (s.raise c).resp = s.resp := rfl

/-! ### `State.overrun` -/

@[simp] theorem State.overrun_b (s : State) : (s.overrun).b = s.b := rfl
@[simp] theorem State.overrun_v (s : State) : (s.overrun).v = s.v := rfl
@[simp] theorem State.overrun_borrow (s : State) : (s.overrun).borrow = s.borrow := rfl
@[simp] theorem State.overrun_cmp (s : State) : (s.overrun).cmp = s.cmp := rfl
@[simp] theorem State.overrun_curve (s : State) : (s.overrun).curve = s.curve := rfl
@[simp] theorem State.overrun_crv (s : State) : (s.overrun).crv = s.crv := rfl
@[simp] theorem State.overrun_key (s : State) : (s.overrun).key = s.key := rfl
@[simp] theorem State.overrun_keyv (s : State) : (s.overrun).keyv = s.keyv := rfl
@[simp] theorem State.overrun_k1 (s : State) : (s.overrun).k1 = s.k1 := rfl
@[simp] theorem State.overrun_k2 (s : State) : (s.overrun).k2 = s.k2 := rfl
@[simp] theorem State.overrun_skv (s : State) : (s.overrun).skv = s.skv := rfl
@[simp] theorem State.overrun_cmd (s : State) : (s.overrun).cmd = s.cmd := rfl
@[simp] theorem State.overrun_busy (s : State) : (s.overrun).busy = s.busy := rfl
@[simp] theorem State.overrun_done (s : State) : (s.overrun).done = s.done := rfl
@[simp] theorem State.overrun_ovr (s : State) : (s.overrun).ovr = true := rfl
@[simp] theorem State.overrun_err (s : State) : (s.overrun).err = s.err := rfl
@[simp] theorem State.overrun_ie (s : State) : (s.overrun).ie = s.ie := rfl
@[simp] theorem State.overrun_msgaddr (s : State) : (s.overrun).msgaddr = s.msgaddr := rfl
@[simp] theorem State.overrun_msglen (s : State) : (s.overrun).msglen = s.msglen := rfl
@[simp] theorem State.overrun_dmem (s : State) : (s.overrun).dmem = s.dmem := rfl
@[simp] theorem State.overrun_dmemBytes (s : State) : (s.overrun).dmemBytes = s.dmemBytes := rfl
@[simp] theorem State.overrun_agenda (s : State) : (s.overrun).agenda = s.agenda := rfl
@[simp] theorem State.overrun_resp (s : State) : (s.overrun).resp = s.resp := rfl

/-! ### `State.accept` -/

@[simp] theorem State.accept_b (s : State) (w : Word) : (s.accept w).b = s.b := rfl
@[simp] theorem State.accept_v (s : State) (w : Word) : (s.accept w).v = if opcodeOf w = 0x30 then false else s.v := rfl
@[simp] theorem State.accept_borrow (s : State) (w : Word) : (s.accept w).borrow = s.borrow := rfl
@[simp] theorem State.accept_cmp (s : State) (w : Word) : (s.accept w).cmp = s.cmp := rfl
@[simp] theorem State.accept_curve (s : State) (w : Word) : (s.accept w).curve = s.curve := rfl
@[simp] theorem State.accept_crv (s : State) (w : Word) : (s.accept w).crv = s.crv := rfl
@[simp] theorem State.accept_key (s : State) (w : Word) : (s.accept w).key = s.key := rfl
@[simp] theorem State.accept_keyv (s : State) (w : Word) : (s.accept w).keyv = s.keyv := rfl
@[simp] theorem State.accept_k1 (s : State) (w : Word) : (s.accept w).k1 = s.k1 := rfl
@[simp] theorem State.accept_k2 (s : State) (w : Word) : (s.accept w).k2 = s.k2 := rfl
@[simp] theorem State.accept_skv (s : State) (w : Word) : (s.accept w).skv = s.skv := rfl
@[simp] theorem State.accept_cmd (s : State) (w : Word) : (s.accept w).cmd = w := rfl
@[simp] theorem State.accept_busy (s : State) (w : Word) : (s.accept w).busy = true := rfl
@[simp] theorem State.accept_done (s : State) (w : Word) : (s.accept w).done = false := rfl
@[simp] theorem State.accept_ovr (s : State) (w : Word) : (s.accept w).ovr = s.ovr := rfl
@[simp] theorem State.accept_err (s : State) (w : Word) : (s.accept w).err = s.err := rfl
@[simp] theorem State.accept_ie (s : State) (w : Word) : (s.accept w).ie = s.ie := rfl
@[simp] theorem State.accept_msgaddr (s : State) (w : Word) : (s.accept w).msgaddr = s.msgaddr := rfl
@[simp] theorem State.accept_msglen (s : State) (w : Word) : (s.accept w).msglen = s.msglen := rfl
@[simp] theorem State.accept_dmem (s : State) (w : Word) : (s.accept w).dmem = s.dmem := rfl
@[simp] theorem State.accept_dmemBytes (s : State) (w : Word) : (s.accept w).dmemBytes = s.dmemBytes := rfl
@[simp] theorem State.accept_agenda (s : State) (w : Word) : (s.accept w).agenda = s.agenda := rfl
@[simp] theorem State.accept_resp (s : State) (w : Word) : (s.accept w).resp = s.resp := rfl

/-! ### `State.deriveSubkeys` -/

@[simp] theorem State.deriveSubkeys_b (s : State) (key : Block) : (s.deriveSubkeys key).b = s.b := rfl
@[simp] theorem State.deriveSubkeys_v (s : State) (key : Block) : (s.deriveSubkeys key).v = s.v := rfl
@[simp] theorem State.deriveSubkeys_borrow (s : State) (key : Block) : (s.deriveSubkeys key).borrow = s.borrow := rfl
@[simp] theorem State.deriveSubkeys_cmp (s : State) (key : Block) : (s.deriveSubkeys key).cmp = s.cmp := rfl
@[simp] theorem State.deriveSubkeys_curve (s : State) (key : Block) : (s.deriveSubkeys key).curve = s.curve := rfl
@[simp] theorem State.deriveSubkeys_crv (s : State) (key : Block) : (s.deriveSubkeys key).crv = s.crv := rfl
@[simp] theorem State.deriveSubkeys_key (s : State) (key : Block) : (s.deriveSubkeys key).key = s.key := rfl
@[simp] theorem State.deriveSubkeys_keyv (s : State) (key : Block) : (s.deriveSubkeys key).keyv = s.keyv := rfl
@[simp] theorem State.deriveSubkeys_k1 (s : State) (key : Block) : (s.deriveSubkeys key).k1 = (subkeys key).1 := rfl
@[simp] theorem State.deriveSubkeys_k2 (s : State) (key : Block) : (s.deriveSubkeys key).k2 = (subkeys key).2 := rfl
@[simp] theorem State.deriveSubkeys_skv (s : State) (key : Block) : (s.deriveSubkeys key).skv = true := rfl
@[simp] theorem State.deriveSubkeys_cmd (s : State) (key : Block) : (s.deriveSubkeys key).cmd = s.cmd := rfl
@[simp] theorem State.deriveSubkeys_busy (s : State) (key : Block) : (s.deriveSubkeys key).busy = s.busy := rfl
@[simp] theorem State.deriveSubkeys_done (s : State) (key : Block) : (s.deriveSubkeys key).done = s.done := rfl
@[simp] theorem State.deriveSubkeys_ovr (s : State) (key : Block) : (s.deriveSubkeys key).ovr = s.ovr := rfl
@[simp] theorem State.deriveSubkeys_err (s : State) (key : Block) : (s.deriveSubkeys key).err = s.err := rfl
@[simp] theorem State.deriveSubkeys_ie (s : State) (key : Block) : (s.deriveSubkeys key).ie = s.ie := rfl
@[simp] theorem State.deriveSubkeys_msgaddr (s : State) (key : Block) : (s.deriveSubkeys key).msgaddr = s.msgaddr := rfl
@[simp] theorem State.deriveSubkeys_msglen (s : State) (key : Block) : (s.deriveSubkeys key).msglen = s.msglen := rfl
@[simp] theorem State.deriveSubkeys_dmem (s : State) (key : Block) : (s.deriveSubkeys key).dmem = s.dmem := rfl
@[simp] theorem State.deriveSubkeys_dmemBytes (s : State) (key : Block) : (s.deriveSubkeys key).dmemBytes = s.dmemBytes := rfl
@[simp] theorem State.deriveSubkeys_agenda (s : State) (key : Block) : (s.deriveSubkeys key).agenda = s.agenda := rfl
@[simp] theorem State.deriveSubkeys_resp (s : State) (key : Block) : (s.deriveSubkeys key).resp = s.resp := rfl

/-! ### `State.acknowledge` -/

@[simp] theorem State.acknowledge_b (s : State) : s.acknowledge.b = s.b := by unfold State.acknowledge; split <;> rfl
@[simp] theorem State.acknowledge_v (s : State) : s.acknowledge.v = s.v := by unfold State.acknowledge; split <;> rfl
@[simp] theorem State.acknowledge_borrow (s : State) : s.acknowledge.borrow = s.borrow := by unfold State.acknowledge; split <;> rfl
@[simp] theorem State.acknowledge_cmp (s : State) : s.acknowledge.cmp = s.cmp := by unfold State.acknowledge; split <;> rfl
@[simp] theorem State.acknowledge_curve (s : State) : s.acknowledge.curve = s.curve := by unfold State.acknowledge; split <;> rfl
@[simp] theorem State.acknowledge_crv (s : State) : s.acknowledge.crv = s.crv := by unfold State.acknowledge; split <;> rfl
@[simp] theorem State.acknowledge_key (s : State) : s.acknowledge.key = s.key := by unfold State.acknowledge; split <;> rfl
@[simp] theorem State.acknowledge_keyv (s : State) : s.acknowledge.keyv = s.keyv := by unfold State.acknowledge; split <;> rfl
@[simp] theorem State.acknowledge_k1 (s : State) : s.acknowledge.k1 = s.k1 := by unfold State.acknowledge; split <;> rfl
@[simp] theorem State.acknowledge_k2 (s : State) : s.acknowledge.k2 = s.k2 := by unfold State.acknowledge; split <;> rfl
@[simp] theorem State.acknowledge_skv (s : State) : s.acknowledge.skv = s.skv := by unfold State.acknowledge; split <;> rfl
@[simp] theorem State.acknowledge_cmd (s : State) : s.acknowledge.cmd = s.cmd := by unfold State.acknowledge; split <;> rfl
@[simp] theorem State.acknowledge_busy (s : State) : s.acknowledge.busy = s.busy := by unfold State.acknowledge; split <;> rfl
@[simp] theorem State.acknowledge_done (s : State) :
    s.acknowledge.done = if s.busy then s.done else false := by unfold State.acknowledge; split <;> rfl
@[simp] theorem State.acknowledge_ovr (s : State) : s.acknowledge.ovr = s.ovr := by unfold State.acknowledge; split <;> rfl
@[simp] theorem State.acknowledge_err (s : State) :
    s.acknowledge.err = if s.busy then s.err else none := by unfold State.acknowledge; split <;> rfl
@[simp] theorem State.acknowledge_ie (s : State) : s.acknowledge.ie = s.ie := by unfold State.acknowledge; split <;> rfl
@[simp] theorem State.acknowledge_msgaddr (s : State) : s.acknowledge.msgaddr = s.msgaddr := by unfold State.acknowledge; split <;> rfl
@[simp] theorem State.acknowledge_msglen (s : State) : s.acknowledge.msglen = s.msglen := by unfold State.acknowledge; split <;> rfl
@[simp] theorem State.acknowledge_dmem (s : State) : s.acknowledge.dmem = s.dmem := by unfold State.acknowledge; split <;> rfl
@[simp] theorem State.acknowledge_dmemBytes (s : State) : s.acknowledge.dmemBytes = s.dmemBytes := by unfold State.acknowledge; split <;> rfl
@[simp] theorem State.acknowledge_agenda (s : State) : s.acknowledge.agenda = s.agenda := by unfold State.acknowledge; split <;> rfl
@[simp] theorem State.acknowledge_resp (s : State) : s.acknowledge.resp = s.resp := by unfold State.acknowledge; split <;> rfl

end Sys2Proof.Machine
end

