-- ==== Sys2Proof/Laws/Commands.lean ====
section
/-!
SUPPORT. What each command can do, said once: if its meaning answers a next state, then either its checks passed and the state
is the one its rule gives, or it faulted (spec/30_encoding.md R106, spec/60_exceptions.md R231).
-/

namespace Sys2Proof.Machine

/-- `t` is `s` after a command that faulted, with a code that is ever raised (R224, R231). -/
def Faulted (s t : State) : Prop := ∃ c, c ≠ FaultCode.primeModulusRequired ∧ t = s.raise c

/-- A sequence of checks that never raises the reserved code (R224). -/
def NoPrime {α : Type} (x : Except FaultCode α) : Prop := x ≠ .error .primeModulusRequired

theorem noPrime_bind {α β : Type} {x : Except FaultCode α} {f : α → Except FaultCode β} (hx : NoPrime x)
    (hf : ∀ a, NoPrime (f a)) : NoPrime (x >>= f) := by
  intro h
  rcases bind_eq_error.1 h with h | ⟨a, -, h⟩
  · exact hx h
  · exact hf a h

theorem noPrime_pure {α : Type} (a : α) : NoPrime (pure a : Except FaultCode α) := by intro h; cases h

theorem noPrime_require (ok : Bool) (c : FaultCode) (hc : c ≠ .primeModulusRequired) : NoPrime (require ok c) := by
  cases ok
  · intro h; cases h; exact hc rfl
  · intro h; cases h

theorem noPrime_orFault {α : Type} (c : FaultCode) (hc : c ≠ .primeModulusRequired) (o : Option α) : NoPrime (orFault c o) := by
  cases o
  · intro h; cases h; exact hc rfl
  · intro h; cases h

theorem noPrime_operand (s : State) (c : FaultCode) (hc : c ≠ .primeModulusRequired) (w : Width) (r : Reg) :
    NoPrime (s.operand c w r) := noPrime_orFault c hc _

theorem noPrime_operand20 (s : State) (c : FaultCode) (hc : c ≠ .primeModulusRequired) (r : Reg) :
    NoPrime (s.operand20 c r) := noPrime_orFault c hc _

theorem noPrime_operandBytes (s : State) (r : Reg) : NoPrime (s.operandBytes r) := noPrime_orFault _ (by decide) _

theorem noPrime_operandScalar (s : State) (r : Reg) : NoPrime (s.operandScalar r) := noPrime_orFault _ (by decide) _

theorem noPrime_operandPoint (s : State) (c : FaultCode) (hc : c ≠ .primeModulusRequired) (k : Reg) :
    NoPrime (s.operandPoint c k) :=
  noPrime_bind (noPrime_operand20 s c hc k) fun _ => noPrime_bind (noPrime_operand20 s c hc _) fun _ => noPrime_pure _

theorem noPrime_operandCurve (s : State) : NoPrime s.operandCurve :=
  noPrime_bind (noPrime_require _ _ (by decide)) fun _ => noPrime_pure _

theorem noPrime_operandKey (s : State) : NoPrime s.operandKey :=
  noPrime_bind (noPrime_require _ _ (by decide)) fun _ => noPrime_pure _

theorem noPrime_operandSubkeys (s : State) : NoPrime s.operandSubkeys :=
  noPrime_bind (noPrime_require _ _ (by decide)) fun _ => noPrime_pure _

theorem noPrime_requirePairs (l : List Reg) : NoPrime (requirePairs l) := noPrime_require _ _ (by decide)

theorem noPrime_checkRange (s : State) (a n : Nat) : NoPrime (s.checkRange a n) := by
  intro h
  have := (State.checkRange_eq_error.1 h).1
  cases this

theorem noPrime_memRead (s : State) (a n : Nat) : NoPrime (s.memRead a n) :=
  noPrime_bind (noPrime_checkRange s a n) fun _ => noPrime_pure _

theorem noPrime_memWrite (s : State) (a : Nat) (l : List Byte) : NoPrime (s.memWrite a l) :=
  noPrime_bind (noPrime_checkRange s a _) fun _ => noPrime_pure _

/-- The end of a command: all its writes, or a fault with a code that is ever raised. -/
theorem State.finish_next {s t : State} {r : Except FaultCode State} (hr : NoPrime r) (h : s.finish r = .next t) :
    (∃ u, r = .ok u ∧ t = u.retire) ∨ Faulted s t := by
  rcases State.finish_eq_next h with h | ⟨c, hc, ht⟩
  · exact .inl h
  · exact .inr ⟨c, fun e => hr (e ▸ hc), ht⟩

theorem execLd_next {s t : State} (r : Reg) (w : Width) (addr : BitVec 16) (h : execLd r w addr s = .next t) :
    (addr.toNat + w.bytes ≤ s.dmemBytes ∧
      t = (s.setReg r (.val w (ofBytes w.bytes (s.dmem.readBytes addr.toNat w.bytes)))).retire) ∨ Faulted s t := by
  unfold execLd at h
  refine (State.finish_next ?_ h).imp ?_ id
  · exact noPrime_bind (noPrime_memRead _ _ _) fun _ => noPrime_pure _
  · rintro ⟨u, hu, rfl⟩
    simp only [bind_eq_ok, State.memRead_eq_ok, pure_eq_ok, Except.ok.injEq] at hu
    obtain ⟨_, ⟨h1, rfl⟩, rfl⟩ := hu
    exact ⟨h1, rfl⟩

theorem execSt_next {s t : State} (r : Reg) (addr : BitVec 16) (h : execSt r addr s = .next t) :
    (∃ (w : Width) (x : Big w.bytes), s.b.get r = .val w x ∧ addr.toNat + (toBytes x).length ≤ s.dmemBytes ∧
      t = (s.storeBytes addr.toNat (toBytes x)).retire) ∨ Faulted s t := by
  unfold execSt at h
  refine (State.finish_next ?_ h).imp ?_ id
  · exact noPrime_bind (noPrime_operandBytes _ _) fun _ => noPrime_memWrite _ _ _
  · rintro ⟨u, hu, rfl⟩
    simp only [bind_eq_ok, State.operandBytes_eq_ok, State.memWrite_eq_ok] at hu
    obtain ⟨_, ⟨w, x, h1, rfl⟩, h2, rfl⟩ := hu
    exact ⟨w, x, h1, h2, rfl⟩

theorem execMov_next {s t : State} (rd ra : Reg) (h : execMov rd ra s = .next t) :
    (∃ (k : Scalar), s.b.get ra = .val k.1 k.2 ∧
      t = (s.setReg rd (.val k.1 k.2)).retire) ∨ Faulted s t := by
  unfold execMov at h
  refine (State.finish_next ?_ h).imp ?_ id
  · exact noPrime_bind (noPrime_operandScalar _ _) fun _ => noPrime_pure _
  · rintro ⟨u, hu, rfl⟩
    simp only [bind_eq_ok, State.operandScalar_eq_ok, pure_eq_ok, Except.ok.injEq] at hu
    obtain ⟨k, h1, rfl⟩ := hu
    exact ⟨k, h1, rfl⟩

theorem execExt_next {s t : State} (rd ra : Reg) (h : execExt rd ra s = .next t) :
    (∃ (x : Big 20), s.b.get ra = .val .w20 x ∧
      t = (s.setReg rd (.val .w21 (expand x))).retire) ∨ Faulted s t := by
  unfold execExt at h
  refine (State.finish_next ?_ h).imp ?_ id
  · exact noPrime_bind (noPrime_operand20 _ _ (by decide) _) fun _ => noPrime_pure _
  · rintro ⟨u, hu, rfl⟩
    simp only [bind_eq_ok, State.operand20_eq_ok, pure_eq_ok, Except.ok.injEq] at hu
    obtain ⟨x, h1, rfl⟩ := hu
    exact ⟨x, h1, rfl⟩

theorem execBncmp_next {s t : State} (ra rb : Reg) (w : Width) (h : execBncmp ra rb w s = .next t) :
    (∃ (a : Big w.bytes) (b : Big w.bytes), s.b.get ra = .val w a ∧ s.b.get rb = .val w b ∧
      t = ({ s with cmp := bnCmp a b }).retire) ∨ Faulted s t := by
  unfold execBncmp at h
  refine (State.finish_next ?_ h).imp ?_ id
  · exact noPrime_bind (noPrime_operand _ _ (by decide) _ _) fun _ =>
      noPrime_bind (noPrime_operand _ _ (by decide) _ _) fun _ => noPrime_pure _
  · rintro ⟨u, hu, rfl⟩
    simp only [bind_eq_ok, State.operand_eq_ok, pure_eq_ok, Except.ok.injEq] at hu
    obtain ⟨a, h1, b, h2, rfl⟩ := hu
    exact ⟨a, b, h1, h2, rfl⟩

theorem execBnadd_next {s t : State} (rd ra rb rn : Reg) (w : Width) (h : execBnadd rd ra rb rn w s = .next t) :
    (∃ (a : Big w.bytes) (b : Big w.bytes) (n : Big w.bytes), s.b.get ra = .val w a ∧ s.b.get rb = .val w b ∧
      s.b.get rn = .val w n ∧
      t = (s.setReg rd (.val w (bnAdd a b n))).retire) ∨ Faulted s t := by
  unfold execBnadd at h
  refine (State.finish_next ?_ h).imp ?_ id
  · exact noPrime_bind (noPrime_operand _ _ (by decide) _ _) fun _ =>
      noPrime_bind (noPrime_operand _ _ (by decide) _ _) fun _ =>
      noPrime_bind (noPrime_operand _ _ (by decide) _ _) fun _ => noPrime_pure _
  · rintro ⟨u, hu, rfl⟩
    simp only [bind_eq_ok, State.operand_eq_ok, pure_eq_ok, Except.ok.injEq] at hu
    obtain ⟨a, h1, b, h2, n, h3, rfl⟩ := hu
    exact ⟨a, b, n, h1, h2, h3, rfl⟩

theorem execBnsub_next {s t : State} (rd ra rb : Reg) (w : Width) (h : execBnsub rd ra rb w s = .next t) :
    (∃ (a : Big w.bytes) (b : Big w.bytes), s.b.get ra = .val w a ∧ s.b.get rb = .val w b ∧
      t = ({ s.setReg rd (.val w (subRaw a b).1) with borrow := (subRaw a b).2 }).retire) ∨ Faulted s t := by
  unfold execBnsub at h
  refine (State.finish_next ?_ h).imp ?_ id
  · exact noPrime_bind (noPrime_operand _ _ (by decide) _ _) fun _ =>
      noPrime_bind (noPrime_operand _ _ (by decide) _ _) fun _ => noPrime_pure _
  · rintro ⟨u, hu, rfl⟩
    simp only [bind_eq_ok, State.operand_eq_ok, pure_eq_ok, Except.ok.injEq] at hu
    obtain ⟨a, h1, b, h2, rfl⟩ := hu
    exact ⟨a, b, h1, h2, rfl⟩

theorem execBnsubm_next {s t : State} (rd ra rb rn : Reg) (w : Width) (h : execBnsubm rd ra rb rn w s = .next t) :
    (∃ (a : Big w.bytes) (b : Big w.bytes) (n : Big w.bytes), s.b.get ra = .val w a ∧ s.b.get rb = .val w b ∧
      s.b.get rn = .val w n ∧
      t = (s.setReg rd (.val w (bnSubm a b n))).retire) ∨ Faulted s t := by
  unfold execBnsubm at h
  refine (State.finish_next ?_ h).imp ?_ id
  · exact noPrime_bind (noPrime_operand _ _ (by decide) _ _) fun _ =>
      noPrime_bind (noPrime_operand _ _ (by decide) _ _) fun _ =>
      noPrime_bind (noPrime_operand _ _ (by decide) _ _) fun _ => noPrime_pure _
  · rintro ⟨u, hu, rfl⟩
    simp only [bind_eq_ok, State.operand_eq_ok, pure_eq_ok, Except.ok.injEq] at hu
    obtain ⟨a, h1, b, h2, n, h3, rfl⟩ := hu
    exact ⟨a, b, n, h1, h2, h3, rfl⟩

theorem execBnred_next {s t : State} (rd ra rn : Reg) (w : Width) (h : execBnred rd ra rn w s = .next t) :
    (∃ (a : Big w.bytes) (n : Big w.bytes), s.b.get ra = .val w a ∧ s.b.get rn = .val w n ∧
      t = (s.setReg rd (.val w (bnRed a n))).retire) ∨ Faulted s t := by
  unfold execBnred at h
  refine (State.finish_next ?_ h).imp ?_ id
  · exact noPrime_bind (noPrime_operand _ _ (by decide) _ _) fun _ =>
      noPrime_bind (noPrime_operand _ _ (by decide) _ _) fun _ => noPrime_pure _
  · rintro ⟨u, hu, rfl⟩
    simp only [bind_eq_ok, State.operand_eq_ok, pure_eq_ok, Except.ok.injEq] at hu
    obtain ⟨a, h1, n, h2, rfl⟩ := hu
    exact ⟨a, n, h1, h2, rfl⟩

theorem execBntomon_next {s t : State} (rd ra rn : Reg) (w : Width) (h : execBntomon rd ra rn w s = .next t) :
    (∃ (a : Big w.bytes) (n : Big w.bytes), s.b.get ra = .val w a ∧ s.b.get rn = .val w n ∧
      t = (s.setReg rd (.val w (bnToMon a n))).retire) ∨ Faulted s t := by
  unfold execBntomon at h
  refine (State.finish_next ?_ h).imp ?_ id
  · exact noPrime_bind (noPrime_operand _ _ (by decide) _ _) fun _ =>
      noPrime_bind (noPrime_operand _ _ (by decide) _ _) fun _ => noPrime_pure _
  · rintro ⟨u, hu, rfl⟩
    simp only [bind_eq_ok, State.operand_eq_ok, pure_eq_ok, Except.ok.injEq] at hu
    obtain ⟨a, h1, n, h2, rfl⟩ := hu
    exact ⟨a, n, h1, h2, rfl⟩

theorem execBnfrommon_next {s t : State} (rd ra rn : Reg) (w : Width) (h : execBnfrommon rd ra rn w s = .next t) :
    (∃ (a : Big w.bytes) (n : Big w.bytes), s.b.get ra = .val w a ∧ s.b.get rn = .val w n ∧
      t = (s.setReg rd (.val w (bnFromMon a n))).retire) ∨ Faulted s t := by
  unfold execBnfrommon at h
  refine (State.finish_next ?_ h).imp ?_ id
  · exact noPrime_bind (noPrime_operand _ _ (by decide) _ _) fun _ =>
      noPrime_bind (noPrime_operand _ _ (by decide) _ _) fun _ => noPrime_pure _
  · rintro ⟨u, hu, rfl⟩
    simp only [bind_eq_ok, State.operand_eq_ok, pure_eq_ok, Except.ok.injEq] at hu
    obtain ⟨a, h1, n, h2, rfl⟩ := hu
    exact ⟨a, n, h1, h2, rfl⟩

theorem execBnmonmul_next {s t : State} (rd ra rb rn : Reg) (w : Width) (h : execBnmonmul rd ra rb rn w s = .next t) :
    (∃ (a : Big w.bytes) (b : Big w.bytes) (n : Big w.bytes), s.b.get ra = .val w a ∧ s.b.get rb = .val w b ∧
      s.b.get rn = .val w n ∧
      t = (s.setReg rd (.val w (monMul a b n))).retire) ∨ Faulted s t := by
  unfold execBnmonmul at h
  refine (State.finish_next ?_ h).imp ?_ id
  · exact noPrime_bind (noPrime_operand _ _ (by decide) _ _) fun _ =>
      noPrime_bind (noPrime_operand _ _ (by decide) _ _) fun _ =>
      noPrime_bind (noPrime_operand _ _ (by decide) _ _) fun _ => noPrime_pure _
  · rintro ⟨u, hu, rfl⟩
    simp only [bind_eq_ok, State.operand_eq_ok, pure_eq_ok, Except.ok.injEq] at hu
    obtain ⟨a, h1, b, h2, n, h3, rfl⟩ := hu
    exact ⟨a, b, n, h1, h2, h3, rfl⟩

theorem execBnmonexp_next {s t : State} (rd ra rb rn : Reg) (w : Width) (h : execBnmonexp rd ra rb rn w s = .next t) :
    (∃ (a : Big w.bytes) (e : Scalar) (n : Big w.bytes), s.b.get ra = .val w a ∧ s.b.get rb = .val e.1 e.2 ∧
      s.b.get rn = .val w n ∧
      t = (s.setReg rd (.val w (monExp a e.2 n))).retire) ∨ Faulted s t := by
  unfold execBnmonexp at h
  refine (State.finish_next ?_ h).imp ?_ id
  · exact noPrime_bind (noPrime_operand _ _ (by decide) _ _) fun _ => noPrime_bind (noPrime_operandScalar _ _) fun _ =>
      noPrime_bind (noPrime_operand _ _ (by decide) _ _) fun _ => noPrime_pure _
  · rintro ⟨u, hu, rfl⟩
    simp only [bind_eq_ok, State.operand_eq_ok, State.operandScalar_eq_ok, pure_eq_ok, Except.ok.injEq] at hu
    obtain ⟨a, h1, e, h2, n, h3, rfl⟩ := hu
    exact ⟨a, e, n, h1, h2, h3, rfl⟩

theorem execBnmoninv_next {s t : State} (rd ra rn : Reg) (w : Width) (h : execBnmoninv rd ra rn w s = .next t) :
    (∃ (a : Big w.bytes) (n : Big w.bytes), s.b.get ra = .val w a ∧ s.b.get rn = .val w n ∧
      t = (s.setReg rd (.val w (monInv a n))).retire) ∨ Faulted s t := by
  unfold execBnmoninv at h
  refine (State.finish_next ?_ h).imp ?_ id
  · exact noPrime_bind (noPrime_operand _ _ (by decide) _ _) fun _ =>
      noPrime_bind (noPrime_operand _ _ (by decide) _ _) fun _ => noPrime_pure _
  · rintro ⟨u, hu, rfl⟩
    simp only [bind_eq_ok, State.operand_eq_ok, pure_eq_ok, Except.ok.injEq] at hu
    obtain ⟨a, h1, n, h2, rfl⟩ := hu
    exact ⟨a, n, h1, h2, rfl⟩

theorem execCrvld_next {s t : State} (addr : BitVec 16) (h : execCrvld addr s = .next t) :
    (addr.toNat + 120 ≤ s.dmemBytes ∧
      t = ({ s with curve := curveOfBlock (s.dmem.readBytes addr.toNat 120), crv := true }).retire) ∨ Faulted s t := by
  unfold execCrvld at h
  refine (State.finish_next ?_ h).imp ?_ id
  · exact noPrime_bind (noPrime_memRead _ _ _) fun _ => noPrime_pure _
  · rintro ⟨u, hu, rfl⟩
    simp only [bind_eq_ok, State.memRead_eq_ok, pure_eq_ok, Except.ok.injEq] at hu
    obtain ⟨_, ⟨h1, rfl⟩, rfl⟩ := hu
    exact ⟨h1, rfl⟩

theorem execCrvst_next {s t : State} (addr : BitVec 16) (h : execCrvst addr s = .next t) :
    (s.crv = true ∧ addr.toNat + s.curve.dump.length ≤ s.dmemBytes ∧
      t = (s.storeBytes addr.toNat s.curve.dump).retire) ∨ Faulted s t := by
  unfold execCrvst at h
  refine (State.finish_next ?_ h).imp ?_ id
  · exact noPrime_bind (noPrime_operandCurve _) fun _ => noPrime_memWrite _ _ _
  · rintro ⟨u, hu, rfl⟩
    simp only [bind_eq_ok, State.operandCurve_eq_ok, State.memWrite_eq_ok] at hu
    obtain ⟨_, ⟨h1, rfl⟩, h2, rfl⟩ := hu
    exact ⟨h1, h2, rfl⟩

theorem execPtomon_next {s t : State} (rd ra : Reg) (h : execPtomon rd ra s = .next t) :
    (∃ (P : Point), (∀ q ∈ [rd, ra], Reg.isEven q = true) ∧ s.crv = true ∧
      s.b.get ra = .val .w20 P.x ∧ s.b.get (ra + 1) = .val .w20 P.y ∧
      t = (s.setPair rd (pToMon s.curve.cp P)).retire) ∨ Faulted s t := by
  unfold execPtomon at h
  refine (State.finish_next ?_ h).imp ?_ id
  · exact noPrime_bind (noPrime_requirePairs _) fun _ => noPrime_bind (noPrime_operandCurve _) fun _ =>
      noPrime_bind (noPrime_operandPoint _ _ (by decide) _) fun _ => noPrime_pure _
  · rintro ⟨u, hu, rfl⟩
    simp only [bind_eq_ok, requirePairs_eq_ok, State.operandCurve_eq_ok, State.operandPoint_eq_ok, pure_eq_ok,
      Except.ok.injEq] at hu
    obtain ⟨_, h1, _, ⟨h2, rfl⟩, P, h3, rfl⟩ := hu
    exact ⟨P, h1, h2, h3.1, h3.2, rfl⟩

theorem execPfrommon_next {s t : State} (rd ra : Reg) (h : execPfrommon rd ra s = .next t) :
    (∃ (P : Point), (∀ q ∈ [rd, ra], Reg.isEven q = true) ∧ s.crv = true ∧
      s.b.get ra = .val .w20 P.x ∧ s.b.get (ra + 1) = .val .w20 P.y ∧
      t = (s.setPair rd (pFromMon s.curve.cp P)).retire) ∨ Faulted s t := by
  unfold execPfrommon at h
  refine (State.finish_next ?_ h).imp ?_ id
  · exact noPrime_bind (noPrime_requirePairs _) fun _ => noPrime_bind (noPrime_operandCurve _) fun _ =>
      noPrime_bind (noPrime_operandPoint _ _ (by decide) _) fun _ => noPrime_pure _
  · rintro ⟨u, hu, rfl⟩
    simp only [bind_eq_ok, requirePairs_eq_ok, State.operandCurve_eq_ok, State.operandPoint_eq_ok, pure_eq_ok,
      Except.ok.injEq] at hu
    obtain ⟨_, h1, _, ⟨h2, rfl⟩, P, h3, rfl⟩ := hu
    exact ⟨P, h1, h2, h3.1, h3.2, rfl⟩

theorem execPdbl_next {s t : State} (rd ra : Reg) (h : execPdbl rd ra s = .next t) :
    (∃ (P : Point), (∀ q ∈ [rd, ra], Reg.isEven q = true) ∧ s.crv = true ∧
      s.b.get ra = .val .w20 P.x ∧ s.b.get (ra + 1) = .val .w20 P.y ∧
      t = (s.setPair rd (pDbl s.curve.cp s.curve.ca P)).retire) ∨ Faulted s t := by
  unfold execPdbl at h
  refine (State.finish_next ?_ h).imp ?_ id
  · exact noPrime_bind (noPrime_requirePairs _) fun _ => noPrime_bind (noPrime_operandCurve _) fun _ =>
      noPrime_bind (noPrime_operandPoint _ _ (by decide) _) fun _ => noPrime_pure _
  · rintro ⟨u, hu, rfl⟩
    simp only [bind_eq_ok, requirePairs_eq_ok, State.operandCurve_eq_ok, State.operandPoint_eq_ok, pure_eq_ok,
      Except.ok.injEq] at hu
    obtain ⟨_, h1, _, ⟨h2, rfl⟩, P, h3, rfl⟩ := hu
    exact ⟨P, h1, h2, h3.1, h3.2, rfl⟩

theorem execPadd_next {s t : State} (rd ra rb : Reg) (h : execPadd rd ra rb s = .next t) :
    (∃ (P : Point) (Q : Point), (∀ q ∈ [rd, ra, rb], Reg.isEven q = true) ∧ s.crv = true ∧
      s.b.get ra = .val .w20 P.x ∧ s.b.get (ra + 1) = .val .w20 P.y ∧
      s.b.get rb = .val .w20 Q.x ∧ s.b.get (rb + 1) = .val .w20 Q.y ∧
      t = (s.setPair rd (pAdd s.curve.cp s.curve.ca P Q)).retire) ∨ Faulted s t := by
  unfold execPadd at h
  refine (State.finish_next ?_ h).imp ?_ id
  · exact noPrime_bind (noPrime_requirePairs _) fun _ => noPrime_bind (noPrime_operandCurve _) fun _ =>
      noPrime_bind (noPrime_operandPoint _ _ (by decide) _) fun _ =>
      noPrime_bind (noPrime_operandPoint _ _ (by decide) _) fun _ => noPrime_pure _
  · rintro ⟨u, hu, rfl⟩
    simp only [bind_eq_ok, requirePairs_eq_ok, State.operandCurve_eq_ok, State.operandPoint_eq_ok, pure_eq_ok,
      Except.ok.injEq] at hu
    obtain ⟨_, h1, _, ⟨h2, rfl⟩, P, h3, Q, h4, rfl⟩ := hu
    exact ⟨P, Q, h1, h2, h3.1, h3.2, h4.1, h4.2, rfl⟩

theorem execPmul_next {s t : State} (rd ra rb : Reg) (h : execPmul rd ra rb s = .next t) :
    (∃ (P : Point) (k : Scalar), (∀ q ∈ [rd, ra], Reg.isEven q = true) ∧ s.crv = true ∧
      s.b.get ra = .val .w20 P.x ∧ s.b.get (ra + 1) = .val .w20 P.y ∧ s.b.get rb = .val k.1 k.2 ∧
      t = (s.setPair rd (pMul s.curve.cp s.curve.ca k.2 P)).retire) ∨ Faulted s t := by
  unfold execPmul at h
  refine (State.finish_next ?_ h).imp ?_ id
  · exact noPrime_bind (noPrime_requirePairs _) fun _ => noPrime_bind (noPrime_operandCurve _) fun _ =>
      noPrime_bind (noPrime_operandPoint _ _ (by decide) _) fun _ => noPrime_bind (noPrime_operandScalar _ _) fun _ =>
      noPrime_pure _
  · rintro ⟨u, hu, rfl⟩
    simp only [bind_eq_ok, requirePairs_eq_ok, State.operandCurve_eq_ok, State.operandPoint_eq_ok,
      State.operandScalar_eq_ok, pure_eq_ok, Except.ok.injEq] at hu
    obtain ⟨_, h1, _, ⟨h2, rfl⟩, P, h3, k, h4, rfl⟩ := hu
    exact ⟨P, k, h1, h2, h3.1, h3.2, h4, rfl⟩

theorem execVerify_next {s t : State} (rh rq rr rs : Reg) (h : execVerify rh rq rr rs s = .next t) :
    (∃ (hash : Big 20) (Q : Point) (r : Big 20) (sig : Big 20), (∀ q ∈ [rq], Reg.isEven q = true) ∧ s.crv = true ∧
      s.b.get rh = .val .w20 hash ∧ s.b.get rq = .val .w20 Q.x ∧ s.b.get (rq + 1) = .val .w20 Q.y ∧
      s.b.get rr = .val .w20 r ∧ s.b.get rs = .val .w20 sig ∧
      t = ({ s with v := verify s.curve Q r sig hash }).retire) ∨ Faulted s t := by
  unfold execVerify at h
  refine (State.finish_next ?_ h).imp ?_ id
  · exact noPrime_bind (noPrime_requirePairs _) fun _ => noPrime_bind (noPrime_operandCurve _) fun _ =>
      noPrime_bind (noPrime_operand20 _ _ (by decide) _) fun _ =>
      noPrime_bind (noPrime_operandPoint _ _ (by decide) _) fun _ =>
      noPrime_bind (noPrime_operand20 _ _ (by decide) _) fun _ =>
      noPrime_bind (noPrime_operand20 _ _ (by decide) _) fun _ => noPrime_pure _
  · rintro ⟨u, hu, rfl⟩
    simp only [bind_eq_ok, requirePairs_eq_ok, State.operandCurve_eq_ok, State.operand20_eq_ok,
      State.operandPoint_eq_ok, pure_eq_ok, Except.ok.injEq] at hu
    obtain ⟨_, h1, _, ⟨h2, rfl⟩, hash, h3, Q, h4, r, h5, sig, h6, rfl⟩ := hu
    exact ⟨hash, Q, r, sig, h1, h2, h3, h4.1, h4.2, h5, h6, rfl⟩

theorem execKeyld_next {s t : State} (len : BitVec 8) (addr : BitVec 16) (h : execKeyld len addr s = .next t) :
    (len = 16 ∧ addr.toNat + 16 ≤ s.dmemBytes ∧
      t = ({ s with key := blockOf (s.dmem.readBytes addr.toNat 16), keyv := true, skv := false }).retire) ∨ Faulted s t := by
  unfold execKeyld at h
  refine (State.finish_next ?_ h).imp ?_ id
  · exact noPrime_bind (noPrime_require _ _ (by decide)) fun _ => noPrime_bind (noPrime_memRead _ _ _) fun _ =>
      noPrime_pure _
  · rintro ⟨u, hu, rfl⟩
    simp only [bind_eq_ok, require_eq_ok, State.memRead_eq_ok, pure_eq_ok, Except.ok.injEq] at hu
    obtain ⟨_, h1, _, ⟨h2, rfl⟩, rfl⟩ := hu
    exact ⟨of_decide_eq_true h1, h2, rfl⟩

theorem execSubkey_next {s t : State} (h : execSubkey s = .next t) :
    (s.keyv = true ∧
      t = (s.deriveSubkeys s.key).retire) ∨ Faulted s t := by
  unfold execSubkey at h
  refine (State.finish_next ?_ h).imp ?_ id
  · exact noPrime_bind (noPrime_operandKey _) fun _ => noPrime_pure _
  · rintro ⟨u, hu, rfl⟩
    simp only [bind_eq_ok, State.operandKey_eq_ok, pure_eq_ok, Except.ok.injEq] at hu
    obtain ⟨_, ⟨h1, rfl⟩, rfl⟩ := hu
    exact ⟨h1, rfl⟩

theorem execSkst_next {s t : State} (addr : BitVec 16) (h : execSkst addr s = .next t) :
    (s.skv = true ∧ addr.toNat + (blockBytes s.k1 ++ blockBytes s.k2).length ≤ s.dmemBytes ∧
      t = (s.storeBytes addr.toNat (blockBytes s.k1 ++ blockBytes s.k2)).retire) ∨ Faulted s t := by
  unfold execSkst at h
  refine (State.finish_next ?_ h).imp ?_ id
  · exact noPrime_bind (noPrime_operandSubkeys _) fun _ => noPrime_memWrite _ _ _
  · rintro ⟨u, hu, rfl⟩
    simp only [bind_eq_ok, State.operandSubkeys_eq_ok, State.memWrite_eq_ok] at hu
    obtain ⟨_, ⟨h1, rfl⟩, h2, rfl⟩ := hu
    exact ⟨h1, h2, rfl⟩

theorem execCmac16_next {s t : State} (addr : BitVec 16) (h : execCmac16 addr s = .next t) :
    (s.keyv = true ∧ s.msgaddr.toNat + s.msglen.toNat ≤ s.dmemBytes ∧ addr.toNat + 16 ≤ s.dmemBytes ∧
      t = ((s.deriveSubkeys s.key).storeBytes addr.toNat (mac16 s.key (s.dmem.readBytes s.msgaddr.toNat s.msglen.toNat))).retire) ∨ Faulted s t := by
  unfold execCmac16 at h
  refine (State.finish_next ?_ h).imp ?_ id
  · exact noPrime_bind (noPrime_operandKey _) fun _ => noPrime_bind (noPrime_memRead _ _ _) fun _ =>
      noPrime_bind (noPrime_checkRange _ _ _) fun _ => noPrime_pure _
  · rintro ⟨u, hu, rfl⟩
    simp only [bind_eq_ok, State.operandKey_eq_ok, State.memRead_eq_ok, State.checkRange_eq_ok, pure_eq_ok,
      Except.ok.injEq] at hu
    obtain ⟨_, ⟨h1, rfl⟩, _, ⟨h2, rfl⟩, _, h3, rfl⟩ := hu
    exact ⟨h1, h2, h3, rfl⟩

theorem execCmac20_next {s t : State} (addr : BitVec 16) (h : execCmac20 addr s = .next t) :
    (s.keyv = true ∧ s.msgaddr.toNat + s.msglen.toNat ≤ s.dmemBytes ∧ addr.toNat + 20 ≤ s.dmemBytes ∧
      16 < s.msglen.toNat ∧
      t = ((s.deriveSubkeys s.key).storeBytes addr.toNat (mac20 s.key (s.dmem.readBytes s.msgaddr.toNat s.msglen.toNat))).retire) ∨ Faulted s t := by
  unfold execCmac20 at h
  refine (State.finish_next ?_ h).imp ?_ id
  · exact noPrime_bind (noPrime_operandKey _) fun _ => noPrime_bind (noPrime_memRead _ _ _) fun _ =>
      noPrime_bind (noPrime_checkRange _ _ _) fun _ => noPrime_bind (noPrime_require _ _ (by decide)) fun _ =>
      noPrime_pure _
  · rintro ⟨u, hu, rfl⟩
    simp only [bind_eq_ok, State.operandKey_eq_ok, State.memRead_eq_ok, State.checkRange_eq_ok, require_eq_ok,
      pure_eq_ok, Except.ok.injEq] at hu
    obtain ⟨_, ⟨h1, rfl⟩, _, ⟨h2, rfl⟩, _, h3, _, h4, rfl⟩ := hu
    exact ⟨h1, h2, h3, of_decide_eq_true h4, rfl⟩

end Sys2Proof.Machine
end

