-- ==== Sys2Proof/Laws/PerInstr.lean ====
section
/-!
SUPPORT. A statement made per command: the opcode of the word that encodes it (spec/30_encoding.md R98).
-/

namespace Sys2Proof.Laws.EncodeOpcode

open Sys2Proof

/-- The opcode of a command's row of R98, transcribed independently of the encoder. -/
def opcode : Instr → Nat
  | .ld _ _ _ => 0x01
  | .st _ _ => 0x02
  | .mov _ _ => 0x03
  | .ext _ _ => 0x04
  | .bncmp _ _ _ => 0x10
  | .bnadd _ _ _ _ _ => 0x11
  | .bnsub _ _ _ _ => 0x12
  | .bnsubm _ _ _ _ _ => 0x13
  | .bnred _ _ _ _ => 0x14
  | .bntomon _ _ _ _ => 0x15
  | .bnfrommon _ _ _ _ => 0x16
  | .bnmonmul _ _ _ _ _ => 0x17
  | .bnmonexp _ _ _ _ _ => 0x18
  | .bnmoninv _ _ _ _ => 0x19
  | .crvld _ => 0x20
  | .crvst _ => 0x21
  | .ptomon _ _ => 0x22
  | .pfrommon _ _ => 0x23
  | .pdbl _ _ => 0x24
  | .padd _ _ _ => 0x25
  | .pmul _ _ _ => 0x26
  | .verify _ _ _ _ => 0x30
  | .keyld _ _ => 0x40
  | .subkey => 0x41
  | .skst _ => 0x42
  | .cmac16 _ => 0x43
  | .cmac20 _ => 0x44

/-- The top byte of a command's word is its opcode. -/
def Statement (i : Instr) : Prop := bitsAt (encode i) 24 8 = opcode i

/-- A packed word has its opcode in the top byte when the fields fit below it. -/
theorem bitsAt_packWord (op : Nat) (fields : List (Nat × Nat)) (hop : op < 256)
    (h : (fields.map fun f => f.1 * 2 ^ f.2).sum < 2 ^ 24) : bitsAt (packWord op fields) 24 8 = op := by
  unfold bitsAt packWord
  rw [BitVec.toNat_ofNat]
  omega

theorem Width.bit_lt (w : Width) : w.bit < 2 := by cases w <;> decide

theorem ld (r : Reg) (w : Width) (addr : BitVec 16) : Statement (.ld r w addr) := by
  exact bitsAt_packWord _ _ (by decide) (by have := r.isLt; have := Width.bit_lt w; have := addr.isLt; simp; omega)

theorem st (r : Reg) (addr : BitVec 16) : Statement (.st r addr) := by
  exact bitsAt_packWord _ _ (by decide) (by have := r.isLt; have := addr.isLt; simp; omega)

theorem mov (rd ra : Reg) : Statement (.mov rd ra) := by
  exact bitsAt_packWord _ _ (by decide) (by have := rd.isLt; have := ra.isLt; simp; omega)

theorem ext (rd ra : Reg) : Statement (.ext rd ra) := by
  exact bitsAt_packWord _ _ (by decide) (by have := rd.isLt; have := ra.isLt; simp; omega)

theorem bncmp (ra rb : Reg) (w : Width) : Statement (.bncmp ra rb w) := by
  exact bitsAt_packWord _ _ (by decide) (by have := ra.isLt; have := rb.isLt; have := Width.bit_lt w; simp; omega)

theorem bnadd (rd ra rb rn : Reg) (w : Width) : Statement (.bnadd rd ra rb rn w) := by
  exact bitsAt_packWord _ _ (by decide) (by have := rd.isLt; have := ra.isLt; have := rb.isLt; have := rn.isLt; have := Width.bit_lt w; simp; omega)

theorem bnsub (rd ra rb : Reg) (w : Width) : Statement (.bnsub rd ra rb w) := by
  exact bitsAt_packWord _ _ (by decide) (by have := rd.isLt; have := ra.isLt; have := rb.isLt; have := Width.bit_lt w; simp; omega)

theorem bnsubm (rd ra rb rn : Reg) (w : Width) : Statement (.bnsubm rd ra rb rn w) := by
  exact bitsAt_packWord _ _ (by decide) (by have := rd.isLt; have := ra.isLt; have := rb.isLt; have := rn.isLt; have := Width.bit_lt w; simp; omega)

theorem bnred (rd ra rn : Reg) (w : Width) : Statement (.bnred rd ra rn w) := by
  exact bitsAt_packWord _ _ (by decide) (by have := rd.isLt; have := ra.isLt; have := rn.isLt; have := Width.bit_lt w; simp; omega)

theorem bntomon (rd ra rn : Reg) (w : Width) : Statement (.bntomon rd ra rn w) := by
  exact bitsAt_packWord _ _ (by decide) (by have := rd.isLt; have := ra.isLt; have := rn.isLt; have := Width.bit_lt w; simp; omega)

theorem bnfrommon (rd ra rn : Reg) (w : Width) : Statement (.bnfrommon rd ra rn w) := by
  exact bitsAt_packWord _ _ (by decide) (by have := rd.isLt; have := ra.isLt; have := rn.isLt; have := Width.bit_lt w; simp; omega)

theorem bnmonmul (rd ra rb rn : Reg) (w : Width) : Statement (.bnmonmul rd ra rb rn w) := by
  exact bitsAt_packWord _ _ (by decide) (by have := rd.isLt; have := ra.isLt; have := rb.isLt; have := rn.isLt; have := Width.bit_lt w; simp; omega)

theorem bnmonexp (rd ra rb rn : Reg) (w : Width) : Statement (.bnmonexp rd ra rb rn w) := by
  exact bitsAt_packWord _ _ (by decide) (by have := rd.isLt; have := ra.isLt; have := rb.isLt; have := rn.isLt; have := Width.bit_lt w; simp; omega)

theorem bnmoninv (rd ra rn : Reg) (w : Width) : Statement (.bnmoninv rd ra rn w) := by
  exact bitsAt_packWord _ _ (by decide) (by have := rd.isLt; have := ra.isLt; have := rn.isLt; have := Width.bit_lt w; simp; omega)

theorem crvld (addr : BitVec 16) : Statement (.crvld addr) := by
  exact bitsAt_packWord _ _ (by decide) (by have := addr.isLt; simp; omega)

theorem crvst (addr : BitVec 16) : Statement (.crvst addr) := by
  exact bitsAt_packWord _ _ (by decide) (by have := addr.isLt; simp; omega)

theorem ptomon (rd ra : Reg) : Statement (.ptomon rd ra) := by
  exact bitsAt_packWord _ _ (by decide) (by have := rd.isLt; have := ra.isLt; simp; omega)

theorem pfrommon (rd ra : Reg) : Statement (.pfrommon rd ra) := by
  exact bitsAt_packWord _ _ (by decide) (by have := rd.isLt; have := ra.isLt; simp; omega)

theorem pdbl (rd ra : Reg) : Statement (.pdbl rd ra) := by
  exact bitsAt_packWord _ _ (by decide) (by have := rd.isLt; have := ra.isLt; simp; omega)

theorem padd (rd ra rb : Reg) : Statement (.padd rd ra rb) := by
  exact bitsAt_packWord _ _ (by decide) (by have := rd.isLt; have := ra.isLt; have := rb.isLt; simp; omega)

theorem pmul (rd ra rb : Reg) : Statement (.pmul rd ra rb) := by
  exact bitsAt_packWord _ _ (by decide) (by have := rd.isLt; have := ra.isLt; have := rb.isLt; simp; omega)

theorem verify (rh rq rr rs : Reg) : Statement (.verify rh rq rr rs) := by
  exact bitsAt_packWord _ _ (by decide) (by have := rh.isLt; have := rq.isLt; have := rr.isLt; have := rs.isLt; simp; omega)

theorem keyld (len : BitVec 8) (addr : BitVec 16) : Statement (.keyld len addr) := by
  exact bitsAt_packWord _ _ (by decide) (by have := len.isLt; have := addr.isLt; simp; omega)

theorem subkey : Statement .subkey := by
  exact bitsAt_packWord _ _ (by decide) (by simp)

theorem skst (addr : BitVec 16) : Statement (.skst addr) := by
  exact bitsAt_packWord _ _ (by decide) (by have := addr.isLt; simp; omega)

theorem cmac16 (addr : BitVec 16) : Statement (.cmac16 addr) := by
  exact bitsAt_packWord _ _ (by decide) (by have := addr.isLt; simp; omega)

theorem cmac20 (addr : BitVec 16) : Statement (.cmac20 addr) := by
  exact bitsAt_packWord _ _ (by decide) (by have := addr.isLt; simp; omega)

end Sys2Proof.Laws.EncodeOpcode
end

