-- ==== Sys2Proof/Laws/Step.lean ====
section
/-!
SUPPORT. What a step can do, said once: which event happens, what a completion does, what a host write does.
-/

namespace Sys2Proof.Machine

/-- The opcode that `decode` reads is the one that acceptance looks at. -/
theorem toNat_opcodeOf (w : Word) : (opcodeOf w).toNat = bitsAt w 24 8 := by
  simp [bitsAt, opcodeOf, BitVec.extractLsb'_toNat, Nat.shiftRight_eq_div_pow]

/-- A word that decodes passed the checks of its row. -/
theorem checkedAs_eq_ok {w : Word} {zeros : List (Nat × Nat)} {i j : Instr} (h : checkedAs w zeros i = .ok j) :
    j = i ∧ i.wf = true ∧ ∀ z ∈ zeros, bitsAt w z.1 z.2 = 0 := by
  unfold checkedAs at h
  split at h
  · next hz =>
    split at h
    · next hw =>
      cases h
      exact ⟨rfl, hw, fun z hm => of_decide_eq_true (List.all_eq_true.1 hz z hm)⟩
    · cases h
  · cases h

/-- Every command ends by `finish`: all its writes or a fault, always a next state. -/
theorem exec_eq_finish (i : Instr) (s : State) : ∃ r, exec i s = s.finish r := by
  cases i <;> exact ⟨_, rfl⟩

/-- The completion: nothing on an idle block, the execution of a command that decodes, else the fault. -/
theorem engineStep_next {s t : State} (h : engineStep s = .next t) :
    (s.busy = false ∧ t = s) ∨ (∃ i, s.busy = true ∧ decode s.cmd = .ok i ∧ exec i s = .next t) ∨
      (s.busy = true ∧ t = s.raise .illegalCommand) := by
  unfold engineStep at h
  split at h
  · next hb =>
    split at h
    · next i hi => exact .inr (.inl ⟨i, hb, hi, h⟩)
    · cases h; exact .inr (.inr ⟨hb, rfl⟩)
  · next hb => cases h; exact .inl ⟨by simpa using hb, rfl⟩

/-- A step is a completion, because one is due or nothing else is, or a bus access, or a reset. -/
theorem step_next {s t : State} (h : step s = .next t) :
    (∃ u, (s.agenda = [] ∧ u = s ∨ ∃ rest, s.agenda = .complete :: rest ∧ u = { s with agenda := rest }) ∧
      engineStep u = .next t) ∨
    ∃ rest, (∃ size o, s.agenda = .busRead size o :: rest ∧ t = State.hostRead { s with agenda := rest } size o) ∨
      (∃ size o w, s.agenda = .busWrite size o w :: rest ∧ t = State.hostWrite { s with agenda := rest } size o w) ∨
      ∃ content, s.agenda = .hardReset content :: rest ∧ t = State.hardReset { s with agenda := rest } content := by
  unfold step at h
  split at h
  · next ha => exact .inl ⟨s, .inl ⟨ha, rfl⟩, h⟩
  · next e rest ha =>
    cases e with
    | busRead size o => cases h; exact .inr ⟨rest, .inl ⟨size, o, ha, rfl⟩⟩
    | busWrite size o w => cases h; exact .inr ⟨rest, .inr (.inl ⟨size, o, w, ha, rfl⟩)⟩
    | complete => exact .inl ⟨_, .inr ⟨rest, ha, rfl⟩, h⟩
    | hardReset content => cases h; exact .inr ⟨rest, .inr (.inr ⟨content, ha, rfl⟩)⟩

/-- A read changes nothing but the response of the bus (R67). -/
theorem State.hostRead_eq (s : State) (size : AccessSize) (o : BitVec 17) :
    ∃ r, s.hostRead size o = { s with resp := r } := by
  unfold State.hostRead
  split <;> exact ⟨_, rfl⟩

/-- Where a `DMEM` word of the bus map lies: a multiple of 4 below `DMEM_BYTES`. -/
theorem State.busTarget_dmem {s : State} {size : AccessSize} {o : BitVec 17} {a : Nat}
    (h : s.busTarget size o = .dmem a) : a % 4 = 0 ∧ a < s.dmemBytes ∧ o.toNat = 0x10000 + a := by
  unfold State.busTarget at h
  split at h
  · next hc =>
    unfold busMap at h
    repeat' split at h
    all_goals first | (exact absurd h BusTarget.noConfusion) | skip
    injection h with h
    omega
  · cases h

/-- Only whole words address anything (R62). -/
theorem State.busTarget_word {s : State} {size : AccessSize} {o : BitVec 17} (h : s.busTarget size o ≠ .unmapped) :
    size = .word ∧ o.toNat % 4 = 0 := by
  by_contra hc
  exact h (if_neg hc)

/-- A write does what its target's rule says (R68, R69), or gets the error response (R75). -/
theorem State.hostWrite_eq (s : State) (size : AccessSize) (o : BitVec 17) (w : Word) :
    (s.busTarget size o = .unmapped ∧ s.hostWrite size o w = { s with resp := .error }) ∨
      (s.busTarget size o ≠ .unmapped ∧ s.hostWrite size o w = { s.writeAt w (s.busTarget size o) with resp := .done }) := by
  unfold State.hostWrite
  split
  · next h => exact .inl ⟨h, rfl⟩
  · next h => exact .inr ⟨h, rfl⟩

end Sys2Proof.Machine
end

