-- ==== Sys2Proof/Tests/Slice0.lean ====
section
/-!
SUPPORT. The model's own tests: well-formedness, the decoder on words written out from the spec's encodings, one step of the
commands on the spec's vectors (spec/95_test_vectors.md), and a witness for the hypotheses of each statement.
-/

namespace Sys2Proof.Tests

open Sys2Proof Sys2Proof.Machine

set_option Elab.async false

/-! ### Helpers -/

/-- A 20-byte register. -/
def r20 (x : Nat) : BigReg := .val .w20 (BitVec.ofNat _ x)

/-- A 21-byte register. -/
def r21 (x : Nat) : BigReg := .val .w21 (BitVec.ofNat _ x)

/-- The reset state with registers set. -/
def regs (l : List (Reg × BigReg)) : State := l.foldl (fun s p => s.setReg p.1 p.2) State.reset

/-- The state after an outcome; the reset state when there is none. -/
def after : Outcome → State
  | .next t => t
  | _ => State.reset

/-- The state after a command on registers of the reset state. -/
def run (i : Instr) (l : List (Reg × BigReg)) : State := after (exec i (regs l))

/-- A busy block with a command word, whose completion is due. -/
def busyWith (w : Word) : State := { State.reset with cmd := w, busy := true, agenda := [.complete] }

/-- A state with one event due. -/
def due (s : State) (e : Event) : State := { s with agenda := [e] }

/-- A state with a byte string in `DMEM`. -/
def withDmem (a n x : Nat) : State := State.reset.storeBytes a (toBytes (n := n) (BitVec.ofNat _ x))

/-- The prime of the curve T1 (spec/95_test_vectors.md section 2). -/
def pT1 : Nat := 0xE95E4A5F737059DC60DFC7AD95B3D8139515620F

/-- The order of the curve T1. -/
def nT1 : Nat := 0xE95E4A5F737059DC60DF5991D45029409E60FC09

/-- The base point of T1 in Montgomery form (V-EC1). -/
def gT1 : Point :=
  ⟨0x3843B02E8FBB61E44D75DF4C403E3618C37F197F, 0x42D95CEE82B74641EA876C07AD1B8516D95A2698⟩

/-- The curve context of V-EC1. -/
def curveT1 : CurveContext :=
  { cp := BitVec.ofNat _ pT1, ca := 0xDC8EF2479CEA8680940365ED3504B484CCB4D16C,
    cb := 0xDA4FA2F9C7ADEF541FDB753C86D5735636DF5EEA, cn := BitVec.ofNat _ nT1, cgx := gT1.x, cgy := gT1.y }

/-- The reset state with T1 loaded and registers set. -/
def onT1 (l : List (Reg × BigReg)) : State := { regs l with curve := curveT1, crv := true }

/-- The reset state with a key of zeros loaded. -/
def keyed : State := { State.reset with keyv := true }

/-! ### Well-formed terms: an odd field of each point field is refused (spec/30_encoding.md R101) -/

theorem test_wf_ptomon_rd : (Instr.ptomon 3 2).wf = false := by decide
theorem test_wf_ptomon_ra : (Instr.ptomon 2 3).wf = false := by decide
theorem test_wf_pfrommon_rd : (Instr.pfrommon 15 0).wf = false := by decide
theorem test_wf_pfrommon_ra : (Instr.pfrommon 0 15).wf = false := by decide
theorem test_wf_pdbl_rd : (Instr.pdbl 1 0).wf = false := by decide
theorem test_wf_pdbl_ra : (Instr.pdbl 0 1).wf = false := by decide
theorem test_wf_padd_rd : (Instr.padd 5 2 4).wf = false := by decide
theorem test_wf_padd_ra : (Instr.padd 6 3 4).wf = false := by decide
theorem test_wf_padd_rb : (Instr.padd 6 2 5).wf = false := by decide
theorem test_wf_pmul_rd : (Instr.pmul 5 2 9).wf = false := by decide
theorem test_wf_pmul_ra : (Instr.pmul 4 3 9).wf = false := by decide
theorem test_wf_pmul_odd_scalar : (Instr.pmul 4 2 9).wf = true := by decide
theorem test_wf_verify_rq : (Instr.verify 12 9 10 11).wf = false := by decide
theorem test_wf_verify_odd_rest : (Instr.verify 13 8 11 15).wf = true := by decide

/-! ### Decoding words written out bit by bit (R91 to R96; words of R103, R120 to R198 and section 7 of the vectors) -/

-- op 0000_0001, r 0011, zero 000, W 0, addr 0000_0001_0000_0000
theorem test_decode_ld : decode 0b0000_0001_0011_0000_0000_0001_0000_0000 = .ok (.ld 3 .w20 0x0100) := by decide
theorem test_decode_ld21 : decode 0x01A10080 = .ok (.ld 10 .w21 0x0080) := by decide
theorem test_decode_st : decode 0b0000_0010_0011_0000_0000_0010_0000_0000 = .ok (.st 3 0x0200) := by decide
theorem test_decode_mov : decode 0b0000_0011_0100_0011_0000_0000_0000_0000 = .ok (.mov 4 3) := by decide
theorem test_decode_ext : decode 0x04530000 = .ok (.ext 5 3) := by decide
-- op 0001_0000, rd 0000, ra 0001, rb 0010, rn 0000, zero, W 1
theorem test_decode_bncmp : decode 0b0001_0000_0000_0001_0010_0000_0000_0001 = .ok (.bncmp 1 2 .w21) := by decide
-- op 0001_0001, rd 0011, ra 0001, rb 0010, rn 0111, zero, W 0
theorem test_decode_bnadd : decode 0b0001_0001_0011_0001_0010_0111_0000_0000 = .ok (.bnadd 3 1 2 7 .w20) := by decide
theorem test_decode_bndbl : decode 0x11311701 = .ok (.bndbl 3 1 7 .w21) := by decide
theorem test_decode_bnsub : decode 0x12627001 = .ok (.bnsub 6 2 7 .w21) := by decide
theorem test_decode_bnsubm : decode 0x13312700 = .ok (.bnsubm 3 1 2 7 .w20) := by decide
theorem test_decode_bnred : decode 0x14210701 = .ok (.bnred 2 1 7 .w21) := by decide
theorem test_decode_bntomon : decode 0x15210700 = .ok (.bntomon 2 1 7 .w20) := by decide
theorem test_decode_bnfrommon : decode 0x16540700 = .ok (.bnfrommon 5 4 7 .w20) := by decide
theorem test_decode_bnmonmul : decode 0x17423700 = .ok (.bnmonmul 4 2 3 7 .w20) := by decide
theorem test_decode_bnmonsqr : decode 0x17311700 = .ok (.bnmonsqr 3 1 7 .w20) := by decide
theorem test_decode_bnmonexp : decode 0x18312700 = .ok (.bnmonexp 3 1 2 7 .w20) := by decide
theorem test_decode_bnmoninv : decode 0x19430701 = .ok (.bnmoninv 4 3 7 .w21) := by decide
theorem test_decode_crvld : decode 0b0010_0000_0000_0000_0000_1111_1000_1000 = .ok (.crvld 0x0F88) := by decide
theorem test_decode_crvst : decode 0x21000300 = .ok (.crvst 0x0300) := by decide
theorem test_decode_ptomon : decode 0x22200000 = .ok (.ptomon 2 0) := by decide
theorem test_decode_pfrommon : decode 0x23420000 = .ok (.pfrommon 4 2) := by decide
theorem test_decode_pdbl : decode 0x24420000 = .ok (.pdbl 4 2) := by decide
theorem test_decode_padd : decode 0x25624000 = .ok (.padd 6 2 4) := by decide
-- op 0010_0110, rd 0100, ra 0010, rb 1001, zero (V-DEC14)
theorem test_decode_pmul : decode 0b0010_0110_0100_0010_1001_0000_0000_0000 = .ok (.pmul 4 2 9) := by decide
-- op 0011_0000, rh 1100, rq 1000, rr 1010, rs 1011, zero
theorem test_decode_verify : decode 0b0011_0000_1100_1000_1010_1011_0000_0000 = .ok (.verify 12 8 10 11) := by decide
-- op 0100_0000, len 0010_0000, addr 0000_0100_0000_0000
theorem test_decode_keyld : decode 0b0100_0000_0010_0000_0000_0100_0000_0000 = .ok (.keyld 32 0x0400) := by decide
theorem test_decode_subkey : decode 0x41000000 = .ok .subkey := by decide
theorem test_decode_skst : decode 0x42000420 = .ok (.skst 0x0420) := by decide
theorem test_decode_cmac16 : decode 0x43000440 = .ok (.cmac16 0x0440) := by decide
theorem test_decode_cmac20 : decode 0x44000460 = .ok (.cmac20 0x0460) := by decide

/-- V-DEC1 to V-DEC7: opcodes outside the table. -/
theorem test_decode_unknown : [0x00000000, 0xFFFFFFFF, 0x05000000, 0x1A000000, 0x27000000, 0x31000000, 0x45000000].all (fun w =>
    decode w = .error .unknownOpcode) = true := by decide +kernel

/-- V-DEC8 to V-DEC12, V-DEC15, V-SIG5, V-MAC8: must-be-zero bits. -/
theorem test_decode_mustBeZero : [0x10112000, 0x11312780, 0x03430001, 0x02310200, 0x01320100, 0x20010000, 0x30C8AB01,
    0x41000001].all (fun w =>
    decode w = .error .mustBeZero) = true := by decide +kernel

/-- V-DEC13, V-SIG5: odd point fields. -/
theorem test_decode_oddPair : [0x24320000, 0x30C9AB00].all (fun w =>
    decode w = .error .oddPair) = true := by decide +kernel

/-- The rows of the opcode table do not overlap. -/
theorem test_table_disjoint : opcodeTable.Pairwise fun r r' => r.1 &&& r.2 &&& r'.2 ≠ r'.1 &&& r.2 &&& r'.2 := by decide +kernel

/-! ### Data movement (V-MV1 to V-MV7, V-FLT4, V-FLT5) -/

theorem test_ld : (after (exec (.ld 3 .w21 0x100) (withDmem 0x100 21 0x0123456789ABCDEF0123456789ABCDEF0123456799))).b.get 3
    = r21 0x0123456789ABCDEF0123456789ABCDEF0123456799 := by decide +kernel
theorem test_ld_range : (run (.ld 3 .w20 0x0FED) []).err = some .addressRange ∧ (run (.ld 3 .w20 0x0FEC) []).err = none := by
  decide +kernel
theorem test_st_last : (run (.st 3 0x0FEC) [(3, r20 7)]).dmem = [(0xFFF, 7)] := by decide +kernel
theorem test_st_faults : (run (.st 3 0x0FEC) [(3, r21 7)]).err = some .addressRange ∧
    (run (.st 3 0xFFFF) []).err = some .invalidLength := by decide +kernel
theorem test_mov : (run (.mov 4 3) [(3, r21 9)]).b.get 4 = r21 9 := by decide +kernel
theorem test_ext : (run (.ext 5 3) [(3, r20 nT1)]).b.get 5 = r21 nT1 ∧ (run (.ext 5 3) [(3, r21 1)]).err = some .invalidLength := by
  decide +kernel

/-! ### Big integers (V-BN) -/

/-- V-BN1, V-BN4. -/
theorem test_bncmp : (run (.bncmp 1 2 .w20) [(1, r20 3), (2, r20 5)]).cmp = .lt ∧
    (run (.bncmp 1 2 .w20) [(1, r20 (2 ^ 152)), (2, r20 (2 ^ 152 - 1))]).cmp = .gt := by decide +kernel

/-- V-BN13, V-BN15. -/
theorem test_bnadd : (run (.bnadd 3 1 1 7 .w20) [(1, r20 (2 ^ 160 - 48)), (7, r20 (2 ^ 160 - 47))]).b.get 3 = r20 (2 ^ 160 - 49) ∧
    (run (.bnadd 3 1 1 7 .w21) [(1, r21 (nT1 - 1)), (7, r21 nT1)]).b.get 3 = r21 (nT1 - 2) := by decide +kernel

/-- V-BN64, V-BN62: outside the preconditions. -/
theorem test_bnadd_outside : (run (.bnadd 3 1 2 7 .w20) [(1, r20 7), (2, r20 9), (7, r20 0)]).b.get 3 = r20 16 ∧
    (run (.bnadd 3 1 2 7 .w20) [(1, r20 600), (2, r20 0), (7, r20 251)]).b.get 3 = r20 349 := by decide +kernel

/-- V-BN20. -/
theorem test_bnsub : (run (.bnsub 3 1 2 .w20) [(1, r20 3), (2, r20 5)]).b.get 3 = r20 (2 ^ 160 - 2) ∧
    (run (.bnsub 3 1 2 .w20) [(1, r20 3), (2, r20 5)]).borrow = true := by decide +kernel

/-- V-BN22, V-BN63. -/
theorem test_bnsubm : (run (.bnsubm 3 1 2 7 .w20) [(1, r20 3), (2, r20 5), (7, r20 251)]).b.get 3 = r20 249 ∧
    (run (.bnsubm 3 1 2 7 .w20) [(1, r20 600), (2, r20 1), (7, r20 251)]).b.get 3 = r20 599 := by decide +kernel

/-- V-BN26, V-BN29. -/
theorem test_bnred : (run (.bnred 3 1 7 .w20) [(1, r20 600), (7, r20 251)]).b.get 3 = r20 349 ∧
    (run (.bnred 3 1 7 .w21) [(1, r21 (2 ^ 160 - 1)), (7, r21 nT1)]).b.get 3 = r21 0x16A1B5A08C8FA6239F20A66E2BAFD6BF619F03F6 := by
  decide +kernel

/-- V-BN31. -/
theorem test_bntomon : (run (.bntomon 3 1 7 .w20) [(1, r20 0x0123456789ABCDEF0123456789ABCDEF01234567), (7, r20 pT1)]).b.get 3
    = r20 0x2096BD3DA9FC935831DE03EAD8660D1CE5E0EFA2 := by decide +kernel

/-- V-FLT8. -/
theorem test_bntomon_length : (run (.bntomon 3 1 7 .w20) [(1, r21 1), (7, r20 251)]).err = some .invalidLength := by
  decide +kernel

/-- V-BN32, in place. -/
theorem test_bnfrommon : (run (.bnfrommon 7 3 7 .w20) [(3, r20 0x2096BD3DA9FC935831DE03EAD8660D1CE5E0EFA2), (7, r20 pT1)]).b.get 7
    = r20 0x0123456789ABCDEF0123456789ABCDEF01234567 := by decide +kernel

/-- V-BN44. -/
theorem test_bnmonmul : (run (.bnmonmul 3 1 1 7 .w21) [(1, r21 (nT1 - 1)), (7, r21 nT1)]).b.get 3
    = r21 0x25C7DBE658B93852C0D29F67F009C9CCF544EB2C := by decide +kernel

/-- V-BN60, V-BN61: an even modulus, an operand above the modulus. -/
theorem test_bnmonmul_outside : (run (.bnmonmul 3 1 2 7 .w20) [(1, r20 7), (2, r20 9), (7, r20 250)]).b.get 3 = r20 231 ∧
    (run (.bnmonmul 3 1 2 7 .w20) [(1, r20 300), (2, r20 1), (7, r20 251)]).b.get 3 = r20 15 := by decide +kernel

/-- V-BN50a. -/
theorem test_bnmonexp : (run (.bnmonexp 3 1 2 7 .w20) [(1, r20 140), (2, r21 3), (7, r20 251)]).b.get 3 = r20 83 := by
  decide +kernel

/-- V-BN52. -/
theorem test_bnmoninv : (run (.bnmoninv 3 1 7 .w20) [(1, r20 140), (7, r20 251)]).b.get 3 = r20 218 := by decide +kernel

/-- V-BN66: a composite modulus is not rejected. -/
theorem test_bnmoninv_composite : (run (.bnmoninv 3 1 7 .w20) [(1, r20 5), (7, r20 15)]).b.get 3 = r20 5 := by decide +kernel

/-- The pseudocode on plain numbers: the first step of the example of R139; V-BN62, V-BN63, V-BN64; V-BN60, V-BN61. -/
theorem test_reference_values : digitValue (2 ^ 160) 251 7 0 9 = 113 ∧ addValue (2 ^ 160) 251 600 0 = 349 ∧
    subValue (2 ^ 160) 251 600 1 = 599 ∧ addValue (2 ^ 160) 0 7 9 = 16 ∧ mulValue 20 250 7 9 = 231 ∧
    mulValue 20 251 300 1 = 15 := by decide +kernel

/-! ### Curve and points (V-EC) -/

/-- V-EC1: `CRVST` of the context, its `CA` at offset 20. -/
theorem test_crvst : (after (exec (.crvst 0x0300) (onT1 []))).dmem.readBytes (0x300 + 20) 20
    = toBytes (n := 20) 0xDC8EF2479CEA8680940365ED3504B484CCB4D16C := by decide +kernel

/-- V-EC1: `CRVLD` of a block with `p` at its place and `a` at its place. -/
theorem test_crvld : (after (exec (.crvld 0) (withDmem 0 120 (pT1 * 2 ^ 800 + 0x340E7BE2A280EB74E2BE61BADA745D97E8F7C300 * 2 ^ 640)))).curve
    = { CurveContext.zero with cp := BitVec.ofNat _ pT1, ca := 0xDC8EF2479CEA8680940365ED3504B484CCB4D16C } := by decide +kernel

/-- V-FLT6. -/
theorem test_crvld_range : (run (.crvld 0x0F89) []).err = some .addressRange ∧ (run (.crvld 0x0F88) []).crv = true := by
  decide +kernel

/-- V-EC2. -/
theorem test_ptomon : (after (exec (.ptomon 2 0) (onT1 [(0, r20 0xBED5AF16EA3F6A4F62938C4631EB5AF7BDBCDBC3),
    (1, r20 0x1667CB477A1A8EC338F94741669C976316DA6321)]))).b.get 3 = .val .w20 gT1.y := by decide +kernel
theorem test_pfrommon : (after (exec (.pfrommon 4 2) (onT1 [(2, .val .w20 gT1.x), (3, .val .w20 gT1.y)]))).b.get 5
    = r20 0x1667CB477A1A8EC338F94741669C976316DA6321 := by decide +kernel

/-- V-EC3. -/
theorem test_pdbl : (after (exec (.pdbl 4 2) (onT1 [(2, .val .w20 gT1.x), (3, .val .w20 gT1.y)]))).b.get 5
    = r20 0xAC8DEA1BBC86C8B9B9CBAB8E95B3274B2EF7E249 := by decide +kernel

/-- V-FLT2, V-FLT3: the curve before the tags. -/
theorem test_pdbl_checks : (run (.pdbl 4 2) []).err = some .curveNotLoaded ∧
    (after (exec (.pdbl 4 2) (onT1 []))).err = some .invalidLength := by decide +kernel

/-- V-EC8: infinity is the identity; opposite points give infinity. -/
theorem test_padd : (after (exec (.padd 6 0 2) (onT1 [(0, r20 0), (1, r20 0), (2, .val .w20 gT1.x), (3, .val .w20 gT1.y)]))).b.get 7
    = .val .w20 gT1.y := by decide +kernel
theorem test_padd_opposite : (after (exec (.padd 6 2 4) (onT1 [(2, .val .w20 gT1.x), (3, .val .w20 gT1.y),
    (4, .val .w20 gT1.x), (5, r20 0xA684ED70F0B9139A76585BA5E89852FCBBBB3B77)]))).b.get 6 = r20 0 := by decide +kernel

/-- V-EC9. -/
theorem test_pmul : (after (exec (.pmul 4 2 9) (onT1 [(2, .val .w20 gT1.x), (3, .val .w20 gT1.y), (9, r21 1)]))).b.get 5
    = .val .w20 gT1.y := by decide +kernel

/-! ### VERIFY (V-SIG3, V-SIG5) -/

theorem test_verify_range : (after (exec (.verify 12 8 10 11) { onT1 [(12, r20 1), (8, r20 0), (9, r20 0), (10, r20 1), (11, r20 nT1)]
    with v := true })).v = false := by decide +kernel
theorem test_verify_length : (after (exec (.verify 12 8 10 11) (onT1 [(12, r20 1), (8, r20 0), (9, r20 0), (10, r21 1)]))).err
    = some .invalidSignatureInput := by decide +kernel

/-! ### CMAC (V-MAC7, V-MAC8) -/

/-- The values of `dbl128` alone. -/
theorem test_dbl128 : dbl128 (1#128 <<< 127) = 0x87 ∧ dbl128 1 = 2 ∧ dbl128 (-1) = (-1) ^^^ 0x86#128 ∧ dbl128 0 = 0 := by
  decide +kernel
theorem test_keyld : (after (exec (.keyld 16 0x400) (withDmem 0x400 16 0x2B7E151628AED2A6ABF7158809CF4F3C))).key
    = 0x2B7E151628AED2A6ABF7158809CF4F3C := by decide +kernel
theorem test_keyld_faults : (run (.keyld 17 0xFFFF) []).err = some .invalidKeyLength ∧
    (run (.keyld 16 0x0FF8) []).err = some .addressRange := by decide +kernel
theorem test_subkey_fault : (run .subkey []).err = some .keyNotLoaded := by decide +kernel
theorem test_skst_fault : (after (exec (.skst 0x420) keyed)).err = some .keyNotLoaded := by decide +kernel
theorem test_cmac16_range : (after (exec (.cmac16 0) { keyed with msgaddr := 0x0FF0, msglen := 17 })).err
    = some .addressRange := by decide +kernel
theorem test_cmac20_short : (after (exec (.cmac20 0) { keyed with msglen := 16 })).err = some .shortMessage := by decide +kernel
theorem test_cmac20_short_writes_nothing : (after (exec (.cmac20 0) { keyed with msglen := 16 })).skv = false := by decide +kernel

/-! ### The protocol trace of section 6, step by step -/

/-- Steps 2 and 3. -/
theorem test_trace_fault : (after (step (busyWith 0x11312700))).statusWord = 0x00010002 ∧
    (after (step { after (step (busyWith 0x11312700)) with agenda := [.busWrite .word 4 0x01700000] })).statusWord
      = 0x00010006 := by decide +kernel

/-- Step 4. -/
theorem test_trace_acknowledge : (after (step (due { State.reset with done := true, ovr := true, err := some .invalidLength }
    (.busWrite .word 8 2)))).statusWord = 0x00000004 := by decide +kernel

/-- Step 1. -/
theorem test_trace_id : (after (step (due State.reset (.busRead .word 0)))).resp = .data 0x504B5607 := by decide +kernel

/-- Steps 8 and 10. -/
theorem test_trace_irq : (after (step (due { State.reset with done := true } (.busWrite .word 12 1)))).irq = true := by
  decide +kernel
theorem test_trace_reset : after (step (due { withDmem 0 1 5 with ie := true, cmd := 7 } (.busWrite .word 12 0x80000000)))
    = { withDmem 0 1 5 with resp := .done } := by decide +kernel

/-! ### Witnesses: concrete states and operands that meet the hypotheses of the statements, clause by clause -/

/-- Registers `b1`, `b2`, `b7` for the arithmetic statements: two values below an odd prime modulus. -/
def arith : State := regs [(1, r20 250), (2, r20 3), (7, r20 251), (3, r21 0)]

/-- The curve with prime 251 and order 241, `a = 1` in Montgomery form (`2^160 mod 251 = 20`). -/
def toyCurve : CurveContext := { cp := 251, ca := 20, cb := 0, cn := 241, cgx := 20, cgy := 40 }

/-- The toy curve loaded; pairs `b0, b1` infinity, `b2, b3` and `b4, b5` points with different `x`, `b6, b7` one with the `x`
of the first, `b8, b9` one with `y = 0`; scalars in `b10` to `b15`. -/
def points : State :=
  { regs [(0, r20 0), (1, r20 0), (2, r20 20), (3, r20 250), (4, r20 250), (5, r20 1), (6, r20 20), (7, r20 1), (8, r20 7),
      (9, r20 0), (10, r20 0), (11, r20 1), (12, r21 0), (13, r21 1), (14, r20 240), (15, r20 481)] with
    curve := toyCurve, crv := true }

theorem toNat_251 : (BitVec.ofNat (8 * 20) 251).toNat = 251 := by decide
theorem prime_251 : (BitVec.ofNat (8 * 20) 251).toNat.Prime := by rw [toNat_251]; norm_num
theorem prime_241 : (BitVec.ofNat (8 * 20) 241).toNat.Prime := by
  rw [show (BitVec.ofNat (8 * 20) 241).toNat = 241 by decide]; norm_num

theorem witness_DecodeOfEncode : (Instr.padd 14 0 14).wf = true ∧ (Instr.pmul 0 14 15).wf = true := by decide
theorem witness_DecodedWordIsEncoding : decode 0x30FEFF00 = .ok (.verify 15 14 15 15) := by decide
theorem witness_UndefinedOpcodesFault : [0x00FFFFFF, 0x05000000, 0x0F000000, 0x1A000000, 0x27000000, 0x31000000, 0x45000000,
    0xFF000000].all (fun w => (busyWith w).busy = true ∧ (busyWith w).agenda = .complete :: [] ∧
    (opcodeOf (busyWith w).cmd).toNat ∉ [0x01, 0x02, 0x03, 0x04, 0x10, 0x11, 0x12, 0x13, 0x14, 0x15, 0x16, 0x17, 0x18, 0x19,
      0x20, 0x21, 0x22, 0x23, 0x24, 0x25, 0x26, 0x30, 0x40, 0x41, 0x42, 0x43, 0x44]) = true := by decide +kernel
theorem witness_OddPointFieldsFault : ((opcodeOf 0x22100000).toNat = 0x22 ∧ (0x22100000 : Word).getLsbD 20 = true) ∧
    ((opcodeOf 0x26010000).toNat = 0x26 ∧ (0x26010000 : Word).getLsbD 16 = true) ∧
    ((opcodeOf 0x25001000).toNat = 0x25 ∧ (0x25001000 : Word).getLsbD 12 = true) ∧
    ((opcodeOf 0x30010000).toNat = 0x30 ∧ (0x30010000 : Word).getLsbD 16 = true) ∧
    (busyWith 0x25001000).busy = true ∧ (busyWith 0x25001000).agenda = .complete :: [] ∧
    Reg.isEven 0 = true ∧ Reg.isEven 14 = true := by decide +kernel
theorem witness_StepRunsDecodedCommand : (busyWith 0x41000000).busy = true ∧ decode (busyWith 0x41000000).cmd = .ok .subkey ∧
    (busyWith 0x41000000).agenda = .complete :: [] ∧ ({ busyWith 0x41000000 with agenda := [] } : State).agenda = [] := by
  decide +kernel
/-- Its second clause: a word with a must-be-zero bit set, an odd point field, an opcode outside the table. -/
theorem witness_StepFaultsOnIllegalWord : (busyWith 0x10112000).busy = true ∧
    decode (busyWith 0x10112000).cmd = .error .mustBeZero ∧ decode (busyWith 0x24320000).cmd = .error .oddPair ∧
    decode (busyWith 0).cmd = .error .unknownOpcode ∧ (busyWith 0x10112000).agenda = .complete :: [] := by decide +kernel
/-- The lowest and the highest must-be-zero bit of a format, with the row of the table. -/
theorem witness_MustBeZeroBitsFault : (busyWith 0x10112000).busy = true ∧ (busyWith 0x10112000).agenda = .complete :: [] ∧
    [((0x10000000 : Word), (0xFFF00FFE : Word), (0x10000002 : Word)), (0x10000000, 0xFFF00FFE, 0x10800000),
      (0x01000000, 0xFF0E0000, 0x01020000), (0x02000000, 0xFF0F0000, 0x02010000), (0x41000000, 0xFFFFFFFF, 0x41000001),
      (0x44000000, 0xFFFF0000, 0x44800000)].all (fun c => (c.1, c.2.1) ∈ opcodeTable ∧
        (busyWith c.2.2).cmd &&& 0xFF000000 = c.1 ∧ (busyWith c.2.2).cmd &&& c.2.1 ≠ c.1) = true := by decide +kernel
theorem witness_CommandWriteAccepted : (due State.reset (.busWrite .word 0x00004 0x30C8AB00)).busy = false ∧
    (due State.reset (.busWrite .word 0x00004 0x30C8AB00)).err = none ∧
    (due State.reset (.busWrite .word 0x00004 0x30C8AB00)).agenda = .busWrite .word 0x00004 0x30C8AB00 :: [] := by decide +kernel

/-- The hypotheses of the statements on accesses to `DMEM` words: the first and the last word. -/
theorem witness_DmemWords : Config.LegalDmemBytes State.reset.dmemBytes ∧ State.reset.dmem.wf ∧ State.reset.busy = false ∧
    (0x10000 : BitVec 17).toNat % 4 = 0 ∧ 0x10000 ≤ (0x10000 : BitVec 17).toNat ∧
    (0x10FFC : BitVec 17).toNat % 4 = 0 ∧ (0x10FFC : BitVec 17).toNat < 0x10000 + State.reset.dmemBytes ∧
    0xFFC % 4 = 0 ∧ 0xFFC < State.reset.dmemBytes := by decide +kernel

theorem witness_BusyWritesIgnored : Config.LegalDmemBytes (busyWith 0).dmemBytes ∧ (busyWith 0).busy = true ∧
    (due (busyWith 0) (.busWrite .word 0x10FFC 1)).agenda = .busWrite .word 0x10FFC 1 :: [] ∧
    (due (busyWith 0) (.busRead .word 0x1C)).agenda = .busRead .word 0x1C :: [] ∧ (0x1C : BitVec 17).toNat < 0x20 ∧
    (after (step (busyWith 0))).err ≠ none ∧ (0x7FFFFFFF : Word).getLsbD 31 = false := by decide +kernel
theorem witness_FaultStopKeepsBusOpen : Config.LegalDmemBytes (after (step (busyWith 0))).dmemBytes ∧
    (after (step (busyWith 0))).dmem.wf ∧ (after (step (busyWith 0))).err ≠ none ∧ (after (step (busyWith 0))).busy = false ∧
    State.reset.busy = false ∧ State.reset.err = none ∧ State.reset.dmem.wf ∧
    (due (busyWith 0) (.busWrite .word 0x1C 1)).agenda = .busWrite .word 0x1C 1 :: [] ∧
    (due State.reset (.busWrite .word 0x18 1)).agenda = .busWrite .word 0x18 1 :: [] := by decide +kernel
theorem witness_ReadsChangeNothing : (due (busyWith 7) (.busRead .word 0x04)).agenda = .busRead .word 0x04 :: [] := by decide +kernel
theorem witness_BusErrorsChangeNothing : (0x20 : BitVec 17).toNat = 0x20 ∧ (0x0FFFC : BitVec 17).toNat < 0x10000 ∧
    0x10000 + State.reset.dmemBytes ≤ (0x11000 : BitVec 17).toNat ∧ (0x10001 : BitVec 17).toNat % 4 ≠ 0 ∧
    AccessSize.byte ≠ .word := by decide +kernel
theorem witness_StatusWriteAcknowledges : (due (after (step (busyWith 0))) (.busWrite .word 0x00008 6)).agenda
    = .busWrite .word 0x00008 6 :: [] := by decide +kernel
theorem witness_InterruptFollowsDone : (∃ t, exec (.mov 0 0) State.reset = .next t) ∧ (2 : Word).getLsbD 1 = true ∧
    State.reset.busy = false ∧ State.reset.err = none := ⟨⟨_, rfl⟩, by decide +kernel⟩
theorem witness_SoftResetKeepsDmem : (0x80000000 : Word).getLsbD 31 = true ∧
    (due (withDmem 0 1 5) (.busWrite .word 0x0000C 0x80000000)).agenda = .busWrite .word 0x0000C 0x80000000 :: [] := by
  decide +kernel
theorem witness_HardResetLeavesAnyDmem : (List.replicate 4096 (0x5A : Byte)).length = State.reset.dmemBytes ∧
    (due State.reset (.hardReset [(0, 1), (4096, 2)])).agenda = .hardReset [(0, 1), (4096, 2)] :: [] := by
  refine ⟨by rw [List.length_replicate]; rfl, rfl⟩
theorem witness_ResetStateSound : Config.LegalDmemBytes 256 ∧ Config.LegalDmemBytes 65536 := by decide +kernel

/-- The reset state, running `VERIFY`, meets the invariant; so does a state with a derived subkey pair. -/
theorem witness_StepKeepsInvariant : (busyWith 0x30C8AB00).Inv ∧ ∃ t, step (busyWith 0x30C8AB00) = .next t :=
  ⟨⟨by decide, by decide, by decide, by decide, by decide, by decide, by decide, fun _ => rfl, fun _ => ⟨rfl, rfl, rfl⟩,
    fun h => by cases h⟩, _, rfl⟩

theorem witness_FaultsArePrecise : State.reset.err = none ∧ ∃ t, exec .subkey State.reset = .next t ∧ t.err ≠ none :=
  ⟨rfl, _, rfl, by decide⟩
theorem witness_BusyBlockBecomesIdle : (busyWith 0x41000000).busy = true := rfl
/-- A completing command that is neither `CRVLD` nor `KEYLD`; a host access while `CMD` holds such a word, busy or not. -/
theorem witness_ContextAndKeyPersist : (∃ t, step (busyWith 0x41000000) = .next t) ∧
    (busyWith 0x41000000).agenda = .complete :: [] ∧ decode (busyWith 0x41000000).cmd = .ok .subkey ∧
    decode 0x20000000 = .ok (.crvld 0) ∧ ¬ (due (busyWith 0x20000000) (.busWrite .word 0x00008 4)).completes ∧
    decode 0x40100000 = .ok (.keyld 16 0) ∧ ¬ ({ State.reset with cmd := 0x40100000 } : State).completes := by
  refine ⟨⟨_, rfl⟩, rfl, by decide +kernel, by decide +kernel, ?_, by decide +kernel, fun h => Bool.noConfusion h.1⟩
  rintro ⟨-, h | ⟨rest, h⟩⟩ <;> simp [due] at h
theorem witness_CommandFrames : State.reset.dmem.wf ∧ (∃ t, exec (.st 3 0x0FEC) (regs [(3, r20 7)]) = .next t) ∧
    (destRegs (.padd 14 0 2) = [14, 15]) ∧ destRange (regs [(3, r21 7)]) (.st 3 0x0FEB) = (0x0FEB, 21) :=
  ⟨by decide, ⟨_, rfl⟩, by decide +kernel⟩
/-- An idle block whose `CMD` still holds `SKST`, and a busy one that completes another command. -/
theorem witness_KeysDoNotLeak : State.SameButKeys State.reset { State.reset with key := 1, k1 := 2, k2 := 3 } ∧
    decode 0x42000000 = .ok (.skst 0) ∧ ¬ ({ State.reset with cmd := 0x42000000 } : State).completes ∧
    (busyWith 0x41000000).completes ∧ decode (busyWith 0x41000000).cmd = .ok .subkey :=
  ⟨rfl, by decide +kernel, fun h => Bool.noConfusion h.1, ⟨rfl, .inr ⟨[], rfl⟩⟩, by decide +kernel⟩

theorem witness_ContextChecksComeFirst : (Instr.pdbl 3 2).wf = false ∧ (17 : BitVec 8) ≠ 16 ∧ (Instr.pdbl 4 2).wf = true ∧
    needsCurve (.pdbl 4 2) = true ∧ State.reset.crv = false ∧ needsKey .subkey = true ∧ State.reset.keyv = false ∧
    State.reset.skv = false := by decide +kernel
theorem witness_WrongTagsFault : (Instr.verify 1 2 3 1).wf = true ∧ contextReady (onT1 [(1, r20 1)]) (.verify 1 2 3 1) ∧
    ∃ c ∈ sourceTags (.verify 1 2 3 1), ¬ tagMatches (onT1 [(1, r20 1)]) c := by
  refine ⟨by decide, ⟨fun _ => rfl, fun h => by simp [needsKey] at h, fun ⟨_, h⟩ => by simp at h⟩, (2, some .w20), by decide, ?_⟩
  show ¬ _ = _
  decide +kernel
theorem witness_RangesThatDoNotFitFault :
    (∃ r ∈ neededRanges (regs [(3, r21 7)]) (.st 3 0x0FEC), State.reset.dmemBytes < r.1 + r.2) ∧
    tagMatches (regs [(3, r21 7)]) (3, none) ∧ contextReady (regs [(3, r21 7)]) (.st 3 0x0FEC) ∧
    ∃ r ∈ neededRanges { keyed with msgaddr := 0x1000, msglen := 1 } (.cmac16 0), State.reset.dmemBytes < r.1 + r.2 := by
  refine ⟨⟨(0x0FEC, 21), by decide +kernel, by decide⟩, by simp only [tagMatches]; decide +kernel, ⟨fun h => by simp [needsCurve] at h,
    fun h => by simp [needsKey] at h, fun ⟨_, h⟩ => by simp at h⟩, ⟨(0x1000, 1), by decide +kernel, by decide⟩⟩
/-- Its second clause, at the ends of the range of `MSGLEN`. -/
theorem witness_ShortMessage : [0, 16].all (fun n => ({ keyed with msglen := n } : State).keyv = true ∧
      ({ keyed with msglen := n } : State).msgaddr.toNat + ({ keyed with msglen := n } : State).msglen.toNat ≤ keyed.dmemBytes ∧
      (0x0FEC : BitVec 16).toNat + 20 ≤ keyed.dmemBytes ∧ ({ keyed with msglen := n } : State).msglen.toNat ≤ 16) = true := by
  decide +kernel

theorem witness_LdLoadsInteger : (0x0FEC : BitVec 16).toNat + Width.w20.bytes ≤ State.reset.dmemBytes ∧
    (0x0FEB : BitVec 16).toNat + Width.w21.bytes ≤ State.reset.dmemBytes := by decide
theorem witness_StStoresAtOwnLength : (regs [(3, r21 7)]).dmem.wf ∧ (regs [(3, r21 7)]).b.get 3 = r21 7 ∧
    (0x0FEB : BitVec 16).toNat + Width.w21.bytes ≤ (regs [(3, r21 7)]).dmemBytes := by decide +kernel
theorem witness_MovCopiesValueAndTag : arith.b.get 3 = r21 0 := by decide +kernel
theorem witness_ExtPrependsZeroByte : arith.b.get 1 = r20 250 := by decide +kernel

/-- The hypotheses of the statements on two or three integer operands: below an odd prime modulus, zero, one below the modulus. -/
theorem witness_arithmetic : arith.b.get 1 = r20 250 ∧ arith.b.get 2 = r20 3 ∧ arith.b.get 7 = r20 251 ∧
    250 < 251 ∧ 0 < 3 ∧ 3 < 251 ∧ 251 % 2 = 1 ∧ 1 < 251 ∧ 3 ≤ 251 ∧ 250 < 2 * 251 := by decide +kernel
/-- The operands outside the preconditions: an even modulus, a value above the modulus, the modulus zero. -/
theorem witness_outside : (regs [(1, r20 300), (2, r20 3), (7, r20 250), (0, r20 0)]).b.get 1 = r20 300 ∧
    (regs [(1, r20 300), (2, r20 3), (7, r20 250), (0, r20 0)]).b.get 7 = r20 250 ∧
    (regs [(1, r20 300), (2, r20 3), (7, r20 250), (0, r20 0)]).b.get 0 = r20 0 := by decide +kernel
/-- Values below the modulus at 21 bytes, with exponents of both lengths. -/
theorem witness_arithmetic21 : ∀ r ∈ [(1, r21 250), (2, r21 0), (7, r21 251), (4, r20 3)],
    (regs [(1, r21 250), (2, r21 0), (7, r21 251), (4, r20 3)]).b.get r.1 = r.2 := by decide +kernel
theorem witness_MontgomeryRoundTrip : (3 : Reg) ≠ 7 ∧ (7 : Reg) = 7 ∧ arith.b.get 1 = r20 250 ∧ arith.b.get 7 = r20 251 ∧ 251 % 2 = 1 ∧ 250 < 251 := by
  decide +kernel
theorem witness_DigitStepDividesExactly : (251 : Big 1).toNat % 2 = 1 ∧ (250 : Big 1).toNat < (251 : Big 1).toNat ∧ 0 < 1 := by decide
theorem witness_BnmonexpRaisesToPower : arith.b.get 3 = r21 0 ∧ 250 ≡ 138 * 2 ^ 160 [MOD 251] := by
  refine ⟨by decide +kernel, by decide +kernel⟩
theorem witness_BnmoninvInverts : (BitVec.ofNat (8 * 20) 251).toNat.Prime ∧ (BitVec.ofNat (8 * 20) 251).toNat ≠ 2 ∧
    0 < (BitVec.ofNat (8 * 20) 250).toNat ∧ (BitVec.ofNat (8 * 20) 250).toNat < (BitVec.ofNat (8 * 20) 251).toNat ∧
    3 ≤ (BitVec.ofNat (8 * 20) 3).toNat := ⟨prime_251, by decide⟩

theorem witness_CrvldConstructsCurve : (0x0F88 : BitVec 16).toNat + 120 ≤ State.reset.dmemBytes ∧
    State.spells (withDmem 19 1 251) 0 (n := 20) 251 ∧ State.spells (withDmem 19 1 251) 20 (n := 20) 0 ∧
    (0 : Big 20).toNat < (251 : Big 20).toNat := by
  refine ⟨by decide, ?_, ?_, by decide⟩ <;> unfold State.spells <;> decide +kernel
theorem witness_CrvstDumpsContext : points.dmem.wf ∧ points.crv = true ∧ (0x0F88 : BitVec 16).toNat + 120 ≤ points.dmemBytes := by
  decide +kernel
/-- Infinity, a point with nonzero coordinates below the prime, one with `y = 0`. -/
theorem witness_points : points.holdsPoint 0 Point.inf ∧ points.holdsPoint 2 ⟨20, 250⟩ ∧ points.holdsPoint 4 ⟨250, 1⟩ ∧
    points.holdsPoint 6 ⟨20, 1⟩ ∧ points.holdsPoint 8 ⟨7, 0⟩ ∧ Reg.isEven 14 = true ∧ points.crv = true ∧
    points.curve.cp.toNat.Prime ∧ points.curve.cp.toNat ≠ 2 ∧ points.curve.ca.toNat < points.curve.cp.toNat ∧
    (250 : Big 20).toNat < points.curve.cp.toNat ∧ points.curve.cp.toNat % 2 = 1 := by
  refine ⟨by unfold State.holdsPoint; decide +kernel, by unfold State.holdsPoint; decide +kernel,
    by unfold State.holdsPoint; decide +kernel, by unfold State.holdsPoint; decide +kernel,
    by unfold State.holdsPoint; decide +kernel, by decide, rfl, prime_251, by decide +kernel⟩
/-- `PADD`: equal finite points in two different pairs, `u = 0` with `v = 0` and with `v ≠ 0`. -/
theorem witness_PaddAdds : (points.setPair 4 ⟨20, 250⟩).holdsPoint 2 ⟨20, 250⟩ ∧
    (points.setPair 4 ⟨20, 250⟩).holdsPoint 4 ⟨20, 250⟩ ∧ (⟨20, 250⟩ : Point) ≠ Point.inf ∧
    subValue (2 ^ 160) points.curve.cp.toNat (20 : Big 20).toNat (20 : Big 20).toNat = 0 ∧
    subValue (2 ^ 160) points.curve.cp.toNat (1 : Big 20).toNat (250 : Big 20).toNat ≠ 0 := by
  unfold State.holdsPoint
  decide +kernel
/-- Montgomery forms of residues exist for every value: here of 1. -/
theorem witness_IsMontgomeryForm : IsMontgomeryForm 251 20 1 := by
  unfold IsMontgomeryForm
  decide +kernel
theorem witness_PmulScalars : points.b.get 10 = r20 0 ∧ points.b.get 11 = r20 1 ∧ points.b.get 12 = r21 0 ∧
    points.b.get 13 = r21 1 ∧ (1 : Big 20).toNat = (1 : Big 21).toNat := by decide +kernel
theorem witness_PmulDoublesAndAdds : (481 : Big 21).toNat = 2 * (240 : Big 20).toNat + true.toNat ∧
    (480 : Big 20).toNat = 2 * (240 : Big 20).toNat + false.toNat := by decide

theorem witness_VerifyWritesVerdict : Reg.isEven 2 = true ∧ (240 : Big 20).toNat < points.curve.cn.toNat ∧ points.crv = true ∧ points.b.get 15 = r20 481 ∧
    points.holdsPoint 2 ⟨20, 250⟩ ∧ points.b.get 14 = r20 240 ∧ points.b.get 11 = r20 1 ∧ points.b.get 10 = r20 0 := by
  unfold State.holdsPoint
  decide +kernel
/-- `r` and `s` at the ends of their range, the hash at the end of its. -/
theorem witness_VerifyAcceptsEcdsa : points.curve.cn.toNat.Prime ∧ points.curve.cn.toNat ≠ 2 ∧ 0 < (1 : Big 20).toNat ∧
    (240 : Big 20).toNat < points.curve.cn.toNat ∧ (481 : Big 20).toNat < 2 * points.curve.cn.toNat :=
  ⟨prime_241, by decide +kernel⟩

theorem witness_KeyldLoadsKey : (0x0FF0 : BitVec 16).toNat + 16 ≤ State.reset.dmemBytes := by decide
theorem witness_SubkeysDerivedAndStored : keyed.keyv = true ∧ ({ keyed with skv := true } : State).skv = true ∧ keyed.dmem.wf ∧
    (0x0FE0 : BitVec 16).toNat + 32 ≤ keyed.dmemBytes := by decide
theorem witness_CmacWritesMac : keyed.dmem.wf ∧ keyed.keyv = true ∧
    (0x0FF0 : BitVec 16).toNat + 16 ≤ keyed.dmemBytes ∧ (0x0FEC : BitVec 16).toNat + 20 ≤ keyed.dmemBytes ∧
    [0, 17, 4096].all (fun n => ({ keyed with msglen := n } : State).msgaddr.toNat
      + ({ keyed with msglen := n } : State).msglen.toNat ≤ keyed.dmemBytes) = true ∧
    16 < ({ keyed with msglen := 17 } : State).msglen.toNat := by decide +kernel
theorem witness_MacIsOmacOne : (List.replicate 15 (0 : Byte)).length < 16 ∧ (([] : List Byte) = [] → ([] : List Block) = []) := by
  decide
end Sys2Proof.Tests
end

