-- ==== Sys2Proof/Proofs/MemoryBus.lean ====
section
/-!
PROOFS. The host bus (spec/20_memory.md): reads have no side effects (R67), `DMEM` words are big-endian (R63), and an access
the map does not allow gets an error response and changes nothing (R62, R75).
-/

namespace Sys2Proof.Machine

/-! ### The bus map and the words of its targets -/

@[simp] theorem State.busTarget_id (s : State) : s.busTarget .word 0x00 = .id := rfl
@[simp] theorem State.busTarget_cmd (s : State) : s.busTarget .word 0x04 = .cmd := rfl
@[simp] theorem State.busTarget_status (s : State) : s.busTarget .word 0x08 = .status := rfl
@[simp] theorem State.busTarget_ctrl (s : State) : s.busTarget .word 0x0C = .ctrl := rfl
@[simp] theorem State.busTarget_msgaddr (s : State) : s.busTarget .word 0x10 = .msgaddr := rfl
@[simp] theorem State.busTarget_msglen (s : State) : s.busTarget .word 0x14 = .msglen := rfl

/-- The two reserved offsets (R41). -/
theorem State.busTarget_reserved (s : State) {o : BitVec 17} (h : o = 0x18 ∨ o = 0x1C) :
    s.busTarget .word o = .reserved := by
  rcases h with rfl | rfl <;> rfl

/-- An aligned whole word addresses what the map names (R62). -/
theorem State.busTarget_aligned (s : State) {o : BitVec 17} (h : o.toNat % 4 = 0) :
    s.busTarget .word o = busMap s.dmemBytes o.toNat := if_pos ⟨rfl, h⟩

theorem busMap_dmem {n a : Nat} (h : a < n) : busMap n (0x10000 + a) = .dmem a := by
  have hdmem : 0x10000 ≤ 0x10000 + a ∧ 0x10000 + a < 0x10000 + n := by omega
  unfold busMap
  repeat rw [if_neg (by omega)]
  rw [if_pos hdmem, Nat.add_sub_cancel_left]

/-- Between the registers and `DMEM`, and above `DMEM`, there is nothing (R61). -/
theorem busMap_unmapped {n o : Nat} (h : 0x20 ≤ o ∧ o < 0x10000 ∨ 0x10000 + n ≤ o) : busMap n o = .unmapped := by
  unfold busMap
  repeat rw [if_neg (by omega)]

/-- The word of `DMEM` at `a`, seen from the bus (R61): no legal `DMEM` reaches the end of the window. -/
theorem State.busTarget_dmemWord {s : State} {a : Nat} (hn : Config.LegalDmemBytes s.dmemBytes) (h4 : a % 4 = 0)
    (ha : a < s.dmemBytes) : s.busTarget .word (BitVec.ofNat 17 (0x10000 + a)) = .dmem a := by
  have ho : (BitVec.ofNat 17 (0x10000 + a)).toNat = 0x10000 + a := by
    rw [BitVec.toNat_ofNat, Nat.mod_eq_of_lt (by omega)]
  rw [s.busTarget_aligned (by omega), ho, busMap_dmem ha]

/-- Accesses of another size, misaligned ones, and those outside the map address nothing (R61, R62). -/
theorem State.busTarget_unmapped {s : State} {size : AccessSize} {o : BitVec 17}
    (h : size ≠ .word ∨ o.toNat % 4 ≠ 0 ∨ 0x20 ≤ o.toNat ∧ o.toNat < 0x10000 ∨ 0x10000 + s.dmemBytes ≤ o.toNat) :
    s.busTarget size o = .unmapped := by
  by_contra hm
  obtain ⟨rfl, h4⟩ := State.busTarget_word hm
  rw [s.busTarget_aligned h4] at hm
  rcases h with hsize | halign | hout
  · exact hsize rfl
  · exact halign h4
  · exact hm (busMap_unmapped hout)

/-- `CTRL` reads as `IE` in bit 0 (R38). -/
theorem State.ctrlWord_eq (s : State) : s.ctrlWord = if s.ie then 1 else 0 := rfl

/-! ### Steps that are a host access -/

theorem step_busRead {s : State} {size : AccessSize} {o : BitVec 17} {rest : List Event}
    (h : s.agenda = .busRead size o :: rest) : step s = .next (State.hostRead { s with agenda := rest } size o) := by
  unfold step
  rw [h]
  rfl

theorem step_busWrite {s : State} {size : AccessSize} {o : BitVec 17} {w : Word} {rest : List Event}
    (h : s.agenda = .busWrite size o w :: rest) : step s = .next (State.hostWrite { s with agenda := rest } size o w) := by
  unfold step
  rw [h]
  rfl

/-- A read of a target that holds a word returns that word and changes nothing else. -/
theorem State.hostRead_word {s : State} {size : AccessSize} {o : BitVec 17} {w : Word}
    (h : s.wordAt (s.busTarget size o) = some w) : s.hostRead size o = { s with resp := .data w } := by
  unfold State.hostRead
  rw [h]

/-- A read changes at most the response (R67). -/
theorem State.hostRead_frame (s : State) (size : AccessSize) (o : BitVec 17) :
    s.hostRead size o = { s with resp := (s.hostRead size o).resp } := by
  obtain ⟨r, hr⟩ := s.hostRead_eq size o
  rw [hr]

theorem State.hostRead_resp {s : State} {size : AccessSize} {o : BitVec 17} {w : Word}
    (h : s.wordAt (s.busTarget size o) = some w) : (s.hostRead size o).resp = .data w := by
  rw [State.hostRead_word h]

/-- A read of nothing gets the error response (R75). -/
theorem State.hostRead_unmapped {s : State} {size : AccessSize} {o : BitVec 17} (h : s.busTarget size o = .unmapped) :
    s.hostRead size o = { s with resp := .error } := by
  unfold State.hostRead
  rw [h]
  rfl

/-- A write to nothing gets the error response and is dropped (R75). -/
theorem State.hostWrite_unmapped {s : State} {size : AccessSize} {o : BitVec 17} (w : Word)
    (h : s.busTarget size o = .unmapped) : s.hostWrite size o w = { s with resp := .error } := by
  rcases s.hostWrite_eq size o w with ⟨-, herror⟩ | ⟨hmapped, -⟩
  · exact herror
  · exact absurd h hmapped

/-- A write to `DMEM` of a block that is not busy stores the four bytes of the word (R63, R68). -/
theorem State.hostWrite_dmem {s : State} {size : AccessSize} {o : BitVec 17} {a : Nat} (w : Word)
    (h : s.busTarget size o = .dmem a) (hidle : s.busy = false) :
    s.hostWrite size o w = { s.storeBytes a (toBytes (n := 4) w) with resp := .done } := by
  rcases s.hostWrite_eq size o w with ⟨hunmapped, -⟩ | ⟨-, hwrite⟩
  · cases h.symm.trans hunmapped
  · rw [hwrite, h]
    simp [State.writeAt, State.unlessBusy, hidle]

/-! ### The bytes of a word -/

/-- Inside the range of a stored integer stand its bytes, most significant first (R6, R63). -/
theorem Memory.read_writeBytes_toBytes {m : Memory} (hm : m.wf) (a : Nat) {n i : Nat} (x : Big n) (hi : i < n) :
    (m.writeBytes a (toBytes x)).read (a + i) = byteAt x i := by
  rw [Memory.read_writeBytes m hm, dif_pos (by simpa using hi), getElem_toBytes, Nat.add_sub_cancel_left]

/-- Outside the range of a stored byte string nothing changes. -/
theorem Memory.read_writeBytes_outside {m : Memory} (hm : m.wf) {a b : Nat} {l : List Byte}
    (h : b < a ∨ a + l.length ≤ b) : (m.writeBytes a l).read b = m.read b := by
  rw [Memory.read_writeBytes m hm, dif_neg (by omega)]

/-- Four bytes as a word, the first in bits 31:24 (R63). -/
theorem ofBytes_four (x₀ x₁ x₂ x₃ : Byte) :
    ofBytes 4 [x₀, x₁, x₂, x₃] =
      (x₀.setWidth 32 <<< 24 ||| x₁.setWidth 32 <<< 16 ||| x₂.setWidth 32 <<< 8 ||| x₃.setWidth 32 : Word) := by
  refine eq_of_byteAt_eq (n := 4) _ _ fun i hi => ?_
  rw [byteAt_ofBytes 4 [x₀, x₁, x₂, x₃] rfl i hi]
  apply BitVec.eq_of_getLsbD_eq
  intro j hj
  simp only [byteAt, BitVec.getLsbD_extractLsb', BitVec.getLsbD_or, BitVec.getLsbD_shiftLeft, BitVec.getLsbD_setWidth]
  interval_cases i <;> grind

/-! ### The obligations -/

/-- Settles O11: a read is a step to `hostRead`, which keeps every field but the response; the values are those of the bus
map's targets. -/
theorem readsChangeNothing : Obligations.ReadsChangeNothing := by
  intro s size o rest h
  refine ⟨(State.hostRead { s with agenda := rest } size o).resp, ?_, ?_⟩
  · rw [step_busRead h, State.hostRead_frame]
  · rintro rfl
    refine ⟨?id, ?cmd, ?status, ?ctrl, ?msgaddr, ?msglen, ?reserved⟩
    case reserved =>
      intro ho
      exact State.hostRead_resp (by rw [State.busTarget_reserved _ ho]; rfl)
    case ctrl =>
      rintro rfl
      rw [← State.ctrlWord_eq]
      exact State.hostRead_resp (by rw [State.busTarget_ctrl]; rfl)
    all_goals
      rintro rfl
      refine State.hostRead_resp ?_
      simp only [State.busTarget_id, State.busTarget_cmd, State.busTarget_status, State.busTarget_msgaddr,
        State.busTarget_msglen]
      rfl

/-- Settles O12: the offset names the `DMEM` word at `a`; a read makes a word of its four bytes, a write stores the four
bytes of the word and leaves the rest of `DMEM` alone. -/
theorem dmemWordsBigEndian : Obligations.DmemWordsBigEndian := by
  intro s a rest hn h4 ha
  have htarget : State.busTarget { s with agenda := rest } .word (BitVec.ofNat 17 (0x10000 + a)) = .dmem a :=
    State.busTarget_dmemWord hn h4 ha
  constructor
  · rintro h x rfl
    rw [step_busRead h, State.hostRead_word (by rw [htarget]; rfl), ← ofBytes_four]
    rfl
  · intro w hidle hm h
    refine ⟨_, step_busWrite h, ?_⟩
    rw [State.hostWrite_dmem w htarget hidle]
    have hbyte {i : Nat} (hi : i < 4) := Memory.read_writeBytes_toBytes hm a (n := 4) w hi
    exact ⟨rfl, hbyte (i := 0) (by decide), hbyte (i := 1) (by decide), hbyte (i := 2) (by decide),
      hbyte (i := 3) (by decide), fun x hx => Memory.read_writeBytes_outside hm (by simpa using hx)⟩

/-- Settles O13: such an access addresses nothing, and the bus answers it by the error response alone. -/
theorem busErrorsChangeNothing : Obligations.BusErrorsChangeNothing := by
  intro s size o rest hbad
  have htarget : State.busTarget { s with agenda := rest } size o = .unmapped := State.busTarget_unmapped hbad
  constructor
  · intro h
    rw [step_busRead h, State.hostRead_unmapped htarget]
  · intro w h
    rw [step_busWrite h, State.hostWrite_unmapped w htarget]

end Sys2Proof.Machine
end

section
/-!
PROOFS. Illegal words (spec/30_encoding.md R99 to R101, R105): what a word that decodes must look like, and the fault of
every other word.
-/

namespace Sys2Proof.Machine

open Sys2Proof.Laws.EncodeOpcode (opcode)

/-! ### The completion of a word that does not decode -/

theorem step_complete {s : State} {rest : List Event} (h : s.agenda = .complete :: rest) :
    step s = engineStep { s with agenda := rest } := by
  unfold step
  rw [h]
  rfl

/-- A busy block whose word is illegal faults (R105, R106). -/
theorem engineStep_illegal {s : State} (hbusy : s.busy = true) (hillegal : ∀ i, decode s.cmd ≠ .ok i) :
    engineStep s = .next (s.raise .illegalCommand) := by
  unfold engineStep
  rw [if_pos hbusy]
  cases hd : decode s.cmd with
  | ok i => exact absurd hd (hillegal i)
  | error e => rfl

/-- The step of a due completion of an illegal word: the fault, and nothing else (R231). -/
theorem step_complete_illegal {s : State} {rest : List Event} (hbusy : s.busy = true)
    (hdue : s.agenda = .complete :: rest) (hillegal : ∀ i, decode s.cmd ≠ .ok i) :
    step s = .next { s with agenda := rest, err := some .illegalCommand, busy := false, done := true } := by
  rw [step_complete hdue]
  exact engineStep_illegal (s := { s with agenda := rest }) hbusy hillegal

/-! ### What the format of a command asks of its word -/

/-- The opcodes of R98: every command has one of the 27. -/
theorem opcode_mem (i : Instr) : opcode i ∈ [0x01, 0x02, 0x03, 0x04, 0x10, 0x11, 0x12, 0x13, 0x14, 0x15, 0x16, 0x17, 0x18,
    0x19, 0x20, 0x21, 0x22, 0x23, 0x24, 0x25, 0x26, 0x30, 0x40, 0x41, 0x42, 0x43, 0x44] := by
  cases i <;> simp [opcode]

/-- The must-be-zero fields of a command as (low bit, length), from its format and the fields its row of R98 uses (R99). -/
def zeroFields : Instr → List (Nat × Nat)
  | .ld .. => [(17, 3)]
  | .st .. => [(16, 4)]
  | .bncmp .. => [(20, 4), (8, 4), (1, 7)]
  | .bnsub .. => [(8, 4), (1, 7)]
  | .bnadd .. | .bnsubm .. | .bnmonmul .. | .bnmonexp .. => [(1, 7)]
  | .bnred .. | .bntomon .. | .bnfrommon .. | .bnmoninv .. => [(12, 4), (1, 7)]
  | .mov .. | .ext .. | .ptomon .. | .pfrommon .. | .pdbl .. => [(0, 16)]
  | .padd .. | .pmul .. => [(0, 12)]
  | .verify .. => [(0, 8)]
  | .crvld .. | .crvst .. | .skst .. | .cmac16 .. | .cmac20 .. => [(16, 8)]
  | .keyld .. => []
  | .subkey => [(0, 24)]

/-- The low bits of a command's point fields (R101). -/
def pointFields : Instr → List Nat
  | .ptomon .. | .pfrommon .. | .pdbl .. | .pmul .. => [20, 16]
  | .padd .. => [20, 16, 12]
  | .verify .. => [16]
  | _ => []

/-- Which register fields name points, by opcode (R101). -/
theorem mem_pointFields (i : Instr) :
    (opcode i ∈ [0x22, 0x23, 0x24, 0x25, 0x26] → 20 ∈ pointFields i ∧ 16 ∈ pointFields i) ∧
      (opcode i = 0x25 → 12 ∈ pointFields i) ∧ (opcode i = 0x30 → 16 ∈ pointFields i) := by
  cases i <;> simp [opcode, pointFields]

/-- Everything that must be 0 in a command's word: its must-be-zero fields and the low bit of each point field. -/
def clearFields (i : Instr) : List (Nat × Nat) := zeroFields i ++ (pointFields i).map (·, 1)

/-- A register field is even when its low bit is clear. -/
theorem isEven_regAt_iff (w : Word) (lo : Nat) : (regAt w lo).isEven = true ↔ bitsAt w lo 1 = 0 := by
  rw [Reg.isEven, decide_eq_true_iff, regAt, Fin.val_ofNat, bitsAt, bitsAt]
  omega

/-- A word that decodes has the opcode of its command, and passed the checks of R99 and R101. -/
theorem decode_eq_ok {w : Word} {i : Instr} (h : decode w = .ok i) :
    bitsAt w 24 8 = opcode i ∧ (∀ z ∈ zeroFields i, bitsAt w z.1 z.2 = 0) ∧
      ∀ lo ∈ pointFields i, (regAt w lo).isEven = true := by
  unfold decode at h
  split at h
  case h_28 => cases h
  all_goals
    next hop =>
    obtain ⟨rfl, hwf, hzero⟩ := checkedAs_eq_ok h
    refine ⟨hop, hzero, List.all_eq_true.1 ?_⟩
    rw [← hwf]
    simp [pointFields, Instr.wf, Bool.and_assoc]

/-- All that must be 0 in the word of a command is 0. -/
theorem bitsAt_clearFields {w : Word} {i : Instr} (h : decode w = .ok i) :
    ∀ z ∈ clearFields i, bitsAt w z.1 z.2 = 0 := by
  obtain ⟨-, hzero, hpoint⟩ := decode_eq_ok h
  intro z hz
  rcases List.mem_append.1 hz with hz | hz
  · exact hzero z hz
  · obtain ⟨lo, hlo, rfl⟩ := List.mem_map.1 hz
    exact (isEven_regAt_iff w lo).1 (hpoint lo hlo)

/-! ### Fields and masks -/

/-- Bit `j` of a field is bit `lo + j` of the word. -/
theorem testBit_bitsAt (w : Word) (lo len j : Nat) :
    (bitsAt w lo len).testBit j = (decide (j < len) && w.getLsbD (lo + j)) := by
  rw [bitsAt, Nat.testBit_mod_two_pow, Nat.testBit_div_two_pow, Nat.add_comm, BitVec.getLsbD]

/-- The bits of a field that is 0. -/
theorem getLsbD_of_bitsAt_eq_zero {w : Word} {lo len j : Nat} (h : bitsAt w lo len = 0) (hj : j < len) :
    w.getLsbD (lo + j) = false := by
  simpa [h, hj] using (testBit_bitsAt w lo len j).symm

/-- In a word that decodes the low bit of a point field is clear. -/
theorem getLsbD_pointField {w : Word} {i : Instr} (h : decode w = .ok i) {lo : Nat} (hlo : lo ∈ pointFields i) :
    w.getLsbD lo = false := by
  obtain ⟨-, -, hpoint⟩ := decode_eq_ok h
  have hfield := (isEven_regAt_iff w lo).1 (hpoint lo hlo)
  exact getLsbD_of_bitsAt_eq_zero hfield Nat.one_pos

/-- The word with ones in the field `(low bit, length)` and zeros elsewhere. -/
def fieldMask (z : Nat × Nat) : Word := (BitVec.allOnes z.2).setWidth 32 <<< z.1

/-- The word with ones in the fields of a list. -/
def fieldsMask (l : List (Nat × Nat)) : Word := (l.map fieldMask).foldr (· ||| ·) 0#32

theorem getLsbD_fieldMask (z : Nat × Nat) {j : Nat} (hj : j < 32) :
    (fieldMask z).getLsbD j = (decide (z.1 ≤ j) && decide (j - z.1 < z.2)) := by
  by_cases hlo : j < z.1
  · simp [fieldMask, hlo, Nat.not_le.2 hlo]
  · simp [fieldMask, hj, hlo, Nat.not_lt.1 hlo]

theorem and_fieldMask {w : Word} {z : Nat × Nat} (h : bitsAt w z.1 z.2 = 0) : w &&& fieldMask z = 0#32 := by
  apply BitVec.eq_of_getLsbD_eq
  intro j hj
  rw [BitVec.getLsbD_and, getLsbD_fieldMask z hj, BitVec.getLsbD_zero]
  by_cases hin : z.1 ≤ j ∧ j - z.1 < z.2
  · have hbit := getLsbD_of_bitsAt_eq_zero h hin.2
    rw [Nat.add_sub_cancel' hin.1] at hbit
    rw [hbit, Bool.false_and]
  · rw [← Bool.decide_and, decide_eq_false hin, Bool.and_false]

theorem and_fieldsMask {w : Word} {l : List (Nat × Nat)} (h : ∀ z ∈ l, bitsAt w z.1 z.2 = 0) :
    w &&& fieldsMask l = 0#32 := by
  induction l with
  | nil => exact BitVec.and_zero
  | cons z l ih =>
    obtain ⟨hz, hl⟩ := List.forall_mem_cons.1 h
    show w &&& (fieldMask z ||| fieldsMask l) = 0#32
    rw [BitVec.and_or_distrib_left, and_fieldMask hz, ih hl, BitVec.or_zero]

/-- The top byte of a word, in its place, is the word of its opcode. -/
theorem and_opcodeMask (w : Word) : w &&& 0xFF000000 = packWord (bitsAt w 24 8) [] := by
  have hmask : (0xFF000000 : Word) = fieldMask (24, 8) := by decide
  have hpack : packWord (bitsAt w 24 8) [] = BitVec.ofNat 32 (bitsAt w 24 8 * 2 ^ 24) := by simp [packWord]
  apply BitVec.eq_of_getLsbD_eq
  intro j hj
  rw [hmask, hpack, BitVec.getLsbD_and, getLsbD_fieldMask _ hj, BitVec.getLsbD_ofNat, Nat.testBit_mul_two_pow,
    testBit_bitsAt]
  by_cases hin : 24 ≤ j
  · rw [Nat.add_sub_cancel' hin, decide_eq_true hj, decide_eq_true hin]
    simp only [Bool.true_and, Bool.and_comm]
  · rw [decide_eq_false hin]
    simp only [Bool.false_and, Bool.and_false]

/-! ### The opcode table -/

/-- The row of a command: its opcode, and a mask over the opcode and all that must be 0. -/
theorem row_mem_opcodeTable (i : Instr) :
    (packWord (opcode i) [], 0xFF000000 ||| fieldsMask (clearFields i)) ∈ opcodeTable := by
  cases i <;> (simp only [opcode, clearFields, zeroFields, pointFields]; decide +kernel)

/-- Different rows have different opcodes. -/
theorem nodup_opcodeTable_match : (opcodeTable.map Prod.fst).Nodup := by decide +kernel

/-- A word that decodes matches every row of the table that has its opcode, under the row's whole mask. -/
theorem and_mask_of_decode {w : Word} {i : Instr} (h : decode w = .ok i) {row : Word × Word} (hrow : row ∈ opcodeTable)
    (hop : w &&& 0xFF000000 = row.1) : w &&& row.2 = row.1 := by
  obtain ⟨hopcode, -, -⟩ := decode_eq_ok h
  have hmatch : row.1 = packWord (opcode i) [] := by rw [← hop, and_opcodeMask, hopcode]
  obtain rfl := List.inj_on_of_nodup_map nodup_opcodeTable_match hrow (row_mem_opcodeTable i) hmatch
  rw [BitVec.and_or_distrib_left, and_fieldsMask (bitsAt_clearFields h), BitVec.or_zero, hop]

/-! ### The word of `PMUL` -/

theorem toNat_packWord {op : Nat} {fields : List (Nat × Nat)} (hop : op < 256)
    (h : (fields.map fun f => f.1 * 2 ^ f.2).sum < 2 ^ 24) :
    (packWord op fields).toNat = op * 2 ^ 24 + (fields.map fun f => f.1 * 2 ^ f.2).sum := by
  rw [packWord, BitVec.toNat_ofNat, Nat.mod_eq_of_lt (by omega)]

/-- A word whose checks succeed is the command. -/
theorem checkedAs_ok {w : Word} {zeros : List (Nat × Nat)} {i : Instr} (hwf : i.wf = true)
    (hzero : ∀ z ∈ zeros, bitsAt w z.1 z.2 = 0) : checkedAs w zeros i = .ok i := by
  rw [checkedAs, if_pos (List.all_eq_true.2 fun z hz => decide_eq_true (hzero z hz)), if_pos hwf]

theorem decode_of_pmul_opcode {w : Word} (h : bitsAt w 24 8 = 0x26) :
    decode w = checkedAs w [(0, 12)] (.pmul (regAt w 20) (regAt w 16) (regAt w 12)) := by
  simp only [decode, h]

/-- The fields of a `PMUL` word are the registers it was packed from, and its low 12 bits are 0 (R91). -/
theorem fields_encode_pmul (rd ra rb : Reg) :
    regAt (encode (.pmul rd ra rb)) 20 = rd ∧ regAt (encode (.pmul rd ra rb)) 16 = ra ∧
      regAt (encode (.pmul rd ra rb)) 12 = rb ∧ bitsAt (encode (.pmul rd ra rb)) 0 12 = 0 := by
  have hd := rd.isLt
  have ha := ra.isLt
  have hb := rb.isLt
  have hword : (encode (.pmul rd ra rb)).toNat =
      0x26 * 2 ^ 24 + (rd.val * 2 ^ 20 + (ra.val * 2 ^ 16 + rb.val * 2 ^ 12)) := by
    simpa [encode] using toNat_packWord (op := 0x26) (fields := [(rd.val, 20), (ra.val, 16), (rb.val, 12)]) (by decide)
      (by simp; omega)
  refine ⟨Fin.ext ?_, Fin.ext ?_, Fin.ext ?_, ?_⟩ <;> simp only [regAt, Fin.ofNat, bitsAt, hword] <;> omega

/-- A `PMUL` with even point registers is a command, whatever its scalar register (R101). -/
theorem decode_encode_pmul {rd ra : Reg} (rb : Reg) (hd : rd.isEven = true) (ha : ra.isEven = true) :
    decode (encode (.pmul rd ra rb)) = .ok (.pmul rd ra rb) := by
  obtain ⟨hrd, hra, hrb, hzero⟩ := fields_encode_pmul rd ra rb
  rw [decode_of_pmul_opcode (Laws.EncodeOpcode.pmul rd ra rb), hrd, hra, hrb]
  exact checkedAs_ok (by simp [Instr.wf, hd, ha]) (by simpa using hzero)

/-! ### The obligations -/

/-- Settles O5: a word that decodes has the opcode of a command. -/
theorem undefinedOpcodesFault : Obligations.UndefinedOpcodesFault := by
  intro s rest hbusy hdue hop
  refine step_complete_illegal hbusy hdue fun i hi => hop ?_
  obtain ⟨hopcode, -, -⟩ := decode_eq_ok hi
  rw [toNat_opcodeOf, hopcode]
  exact opcode_mem i

/-- Settles O6: in a word that decodes the low bit of every point field is clear, and the scalar of `PMUL` is no point. -/
theorem oddPointFieldsFault : Obligations.OddPointFieldsFault := by
  refine ⟨fun s rest hbusy hdue hodd => step_complete_illegal hbusy hdue fun i hi => ?_,
    fun _ _ rb => decode_encode_pmul rb⟩
  obtain ⟨hopcode, -, -⟩ := decode_eq_ok hi
  obtain ⟨hpoints, hpadd, hverify⟩ := mem_pointFields i
  have hclear {lo : Nat} (hset : s.cmd.getLsbD lo = true) (hlo : lo ∈ pointFields i) : False :=
    absurd hset (by simp [getLsbD_pointField hi hlo])
  rw [toNat_opcodeOf, hopcode] at hodd
  rcases hodd with ⟨hop, hset | hset⟩ | ⟨hop, hset⟩ | ⟨hop, hset⟩
  · exact hclear hset (hpoints hop).1
  · exact hclear hset (hpoints hop).2
  · exact hclear hset (hpadd hop)
  · exact hclear hset (hverify hop)

/-- Settles O60: a word that decodes matches the row of its opcode under the row's whole mask. -/
theorem mustBeZeroBitsFault : Obligations.MustBeZeroBitsFault := by
  intro s rest hbusy hdue hrow
  obtain ⟨row, hmem, hop, hbad⟩ := hrow
  exact step_complete_illegal hbusy hdue fun i hi => hbad (and_mask_of_decode hi hmem hop)

end Sys2Proof.Machine
end

section
/-!
PROOFS. Faults (spec/60_exceptions.md): fault stop keeps the bus open (R232), and a faulting command leaves the state as it
was (R231).
-/

namespace Sys2Proof.Machine

/-! ### Host writes to a block that is not busy -/

/-- A write to a target of the map does what the target's rule says and gets the normal response (R68, R69). -/
theorem step_busWrite_mapped {s t : State} {o : BitVec 17} {w : Word} {rest : List Event} {target : BusTarget}
    (h : s.agenda = .busWrite .word o w :: rest) (htarget : s.busTarget .word o = target) (hmapped : target ≠ .unmapped)
    (hwrite : State.writeAt { s with agenda := rest } w target = t) : step s = .next { t with resp := .done } := by
  subst htarget hwrite
  rw [step_busWrite h]
  rcases State.hostWrite_eq { s with agenda := rest } .word o w with ⟨hunmapped, -⟩ | ⟨-, hresult⟩
  · exact absurd hunmapped hmapped
  · exact congrArg _ hresult

theorem State.unlessBusy_of_idle {s : State} (t : State) (h : s.busy = false) : s.unlessBusy t = t := by
  simp [State.unlessBusy, h]

/-- In fault stop no command is accepted (R232). -/
theorem State.issue_of_fault {s : State} (w : Word) (h : s.err ≠ none) : s.issue w = s.overrun := by
  simp [State.issue, Option.isSome_iff_ne_none.2 h]

theorem State.writeCtrl_of_not_reset (s : State) {w : Word} (h : w.getLsbD 31 = false) :
    s.writeCtrl w = { s with ie := w.getLsbD 0 } := if_neg (by rw [h]; exact Bool.false_ne_true)

/-! ### The offsets the map names -/

/-- An aligned offset inside `DMEM` names the word there (R61). -/
theorem State.busTarget_dmemOffset {s : State} {o : BitVec 17} (h4 : o.toNat % 4 = 0) (hlo : 0x10000 ≤ o.toNat)
    (hhi : o.toNat < 0x10000 + s.dmemBytes) : s.busTarget .word o = .dmem (o.toNat - 0x10000) := by
  have ho : o.toNat = 0x10000 + (o.toNat - 0x10000) := by omega
  rw [s.busTarget_aligned h4, ho, busMap_dmem (by omega), Nat.add_sub_cancel_left]

/-- Every aligned offset of the registers names one (R34, R61). -/
theorem busMap_register {n o : Nat} (h4 : o % 4 = 0) (h : o < 0x20) : busMap n o ≠ .unmapped := by
  obtain ⟨k, rfl⟩ := Nat.dvd_of_mod_eq_zero h4
  have hk : k < 8 := by omega
  interval_cases k <;> exact BusTarget.noConfusion

/-- A read fails only where the map names nothing (R75). -/
theorem State.wordAt_eq_some (s : State) {target : BusTarget} (h : target ≠ .unmapped) :
    ∃ x, s.wordAt target = some x := by
  cases target with
  | unmapped => exact absurd rfl h
  | _ => exact ⟨_, rfl⟩

/-- The map names something at every aligned offset of the registers and of `DMEM` (R61). -/
theorem State.busTarget_mapped {s : State} {o : BitVec 17} (h4 : o.toNat % 4 = 0)
    (h : o.toNat < 0x20 ∨ 0x10000 ≤ o.toNat ∧ o.toNat < 0x10000 + s.dmemBytes) :
    s.busTarget .word o ≠ .unmapped := by
  rcases h with hreg | ⟨hlo, hhi⟩
  · rw [s.busTarget_aligned h4]
    exact busMap_register h4 hreg
  · rw [State.busTarget_dmemOffset h4 hlo hhi]
    exact BusTarget.noConfusion

/-! ### A command faults, or keeps `ERR` -/

/-- A command that completes without a fault leaves `ERR` as it was (R106, R231). -/
theorem exec_keeps_err_or_faults {i : Instr} {s t : State} (h : exec i s = .next t) : t.err = s.err ∨ Faulted s t := by
  cases i with
  | ld => exact (execLd_next _ _ _ h).imp_left (by rintro ⟨-, rfl⟩; simp)
  | st => exact (execSt_next _ _ h).imp_left (by rintro ⟨_, _, -, -, rfl⟩; simp)
  | mov => exact (execMov_next _ _ h).imp_left (by rintro ⟨_, -, rfl⟩; simp)
  | ext => exact (execExt_next _ _ h).imp_left (by rintro ⟨_, -, rfl⟩; simp)
  | bncmp => exact (execBncmp_next _ _ _ h).imp_left (by rintro ⟨_, _, -, -, rfl⟩; simp)
  | bnadd => exact (execBnadd_next _ _ _ _ _ h).imp_left (by rintro ⟨_, _, _, -, -, -, rfl⟩; simp)
  | bnsub => exact (execBnsub_next _ _ _ _ h).imp_left (by rintro ⟨_, _, -, -, rfl⟩; simp)
  | bnsubm => exact (execBnsubm_next _ _ _ _ _ h).imp_left (by rintro ⟨_, _, _, -, -, -, rfl⟩; simp)
  | bnred => exact (execBnred_next _ _ _ _ h).imp_left (by rintro ⟨_, _, -, -, rfl⟩; simp)
  | bntomon => exact (execBntomon_next _ _ _ _ h).imp_left (by rintro ⟨_, _, -, -, rfl⟩; simp)
  | bnfrommon => exact (execBnfrommon_next _ _ _ _ h).imp_left (by rintro ⟨_, _, -, -, rfl⟩; simp)
  | bnmonmul => exact (execBnmonmul_next _ _ _ _ _ h).imp_left (by rintro ⟨_, _, _, -, -, -, rfl⟩; simp)
  | bnmonexp => exact (execBnmonexp_next _ _ _ _ _ h).imp_left (by rintro ⟨_, _, _, -, -, -, rfl⟩; simp)
  | bnmoninv => exact (execBnmoninv_next _ _ _ _ h).imp_left (by rintro ⟨_, _, -, -, rfl⟩; simp)
  | crvld => exact (execCrvld_next _ h).imp_left (by rintro ⟨-, rfl⟩; simp)
  | crvst => exact (execCrvst_next _ h).imp_left (by rintro ⟨-, -, rfl⟩; simp)
  | ptomon => exact (execPtomon_next _ _ h).imp_left (by rintro ⟨_, -, -, -, -, rfl⟩; simp)
  | pfrommon => exact (execPfrommon_next _ _ h).imp_left (by rintro ⟨_, -, -, -, -, rfl⟩; simp)
  | pdbl => exact (execPdbl_next _ _ h).imp_left (by rintro ⟨_, -, -, -, -, rfl⟩; simp)
  | padd => exact (execPadd_next _ _ _ h).imp_left (by rintro ⟨_, _, -, -, -, -, -, -, rfl⟩; simp)
  | pmul => exact (execPmul_next _ _ _ h).imp_left (by rintro ⟨_, _, -, -, -, -, -, rfl⟩; simp)
  | verify => exact (execVerify_next _ _ _ _ h).imp_left (by rintro ⟨_, _, _, _, -, -, -, -, -, -, -, rfl⟩; simp)
  | keyld => exact (execKeyld_next _ _ h).imp_left (by rintro ⟨-, -, rfl⟩; simp)
  | subkey => exact (execSubkey_next h).imp_left (by rintro ⟨-, rfl⟩; simp)
  | skst => exact (execSkst_next _ h).imp_left (by rintro ⟨-, -, rfl⟩; simp)
  | cmac16 => exact (execCmac16_next _ h).imp_left (by rintro ⟨-, -, -, rfl⟩; simp)
  | cmac20 => exact (execCmac20_next _ h).imp_left (by rintro ⟨-, -, -, -, rfl⟩; simp)

/-- Fault entry in the words of R231: the state before, plus `ERR`, `BUSY` and `DONE`. -/
theorem Faulted.frame {s t : State} (h : Faulted s t) : t = { s with err := t.err, busy := false, done := true } := by
  obtain ⟨c, -, rfl⟩ := h
  rfl

/-! ### The obligations -/

/-- Settles O10: each offset names its target whatever `ERR` is, and the rule of the target is that of an idle block; only
`CMD` looks at `ERR`. -/
theorem faultStopKeepsBusOpen : Obligations.FaultStopKeepsBusOpen := by
  intro s rest _ hm
  refine ⟨fun o w ho h => ?reserved, fun hidle => ⟨fun w herr h => ?cmd, fun w h => ?msgaddr, fun w h => ?msglen,
    fun w hw h => ?ctrl, fun o w h4 hlo hhi h => ?dmem, fun o h4 hmap h => ?read⟩⟩
  case reserved => exact (step_busWrite_mapped h (State.busTarget_reserved s ho) nofun rfl).trans rfl
  case cmd => exact (step_busWrite_mapped h s.busTarget_cmd nofun (State.issue_of_fault w herr)).trans rfl
  case msgaddr => exact (step_busWrite_mapped h s.busTarget_msgaddr nofun (State.unlessBusy_of_idle _ hidle)).trans rfl
  case msglen => exact (step_busWrite_mapped h s.busTarget_msglen nofun (State.unlessBusy_of_idle _ hidle)).trans rfl
  case ctrl => exact (step_busWrite_mapped h s.busTarget_ctrl nofun (State.writeCtrl_of_not_reset _ hw)).trans rfl
  case dmem =>
    have htarget := State.busTarget_dmemOffset h4 hlo hhi
    refine ⟨_, step_busWrite_mapped h htarget nofun (State.unlessBusy_of_idle _ hidle), rfl, ?_, ?_⟩
    · exact fun i hi => Memory.read_writeBytes_toBytes hm _ (n := 4) w hi
    · exact fun a ha => Memory.read_writeBytes_outside hm (by simpa using ha)
  case read =>
    obtain ⟨x, hx⟩ := State.wordAt_eq_some { s with agenda := rest } (State.busTarget_mapped h4 hmap)
    exact ⟨x, by rw [step_busRead h, State.hostRead_word hx]⟩

/-- Settles O21: without a fault `ERR` would still be clear, and the fault entry writes nothing else. -/
theorem faultsArePrecise : Obligations.FaultsArePrecise := by
  intro i s t hclear h herr
  rcases exec_keeps_err_or_faults h with hkept | hfault
  · exact absurd (hkept.trans hclear) herr
  · exact hfault.frame

end Sys2Proof.Machine
end

section
/-!
PROOFS. Commands as a whole: what each command writes, said once (spec/30_encoding.md R98), and what follows from it: the frame
of every command, and that every command completes and leaves the control registers alone (R106, R261).
-/

namespace Sys2Proof.Machine

/-- What a command that does not fault has written when it ends: the "writes" column of R98, with the range and context
checks that passed. -/
inductive Wrote (s : State) : Instr → State → Prop where
  | reg {i : Instr} {rd : Reg} (r : BigReg) (hdest : destRegs i = [rd]) : Wrote s i (s.setReg rd r)
  | pair {i : Instr} {rd : Reg} (P : Point) (hdest : destRegs i = [rd, rd + 1]) : Wrote s i (s.setPair rd P)
  | comparison (ra rb : Reg) (w : Width) (c : Ordering) : Wrote s (.bncmp ra rb w) { s with cmp := c }
  | difference (rd ra rb : Reg) (w : Width) (r : BigReg) (br : Bool) :
    Wrote s (.bnsub rd ra rb w) { s.setReg rd r with borrow := br }
  | verdict (rh rq rr rs : Reg) (v : Bool) : Wrote s (.verify rh rq rr rs) { s with v := v }
  | bytes {i : Instr} {a : Nat} {l : List Byte} (hdest : destRange s i = (a, l.length))
    (hfit : a + l.length ≤ s.dmemBytes) : Wrote s i (s.storeBytes a l)
  | curve (addr : BitVec 16) (c : CurveContext) : Wrote s (.crvld addr) { s with curve := c, crv := true }
  | key (len : BitVec 8) (addr : BitVec 16) (k : Block) :
    Wrote s (.keyld len addr) { s with key := k, keyv := true, skv := false }
  | subkeys (hkey : s.keyv = true) : Wrote s .subkey (s.deriveSubkeys s.key)
  | mac {i : Instr} {a n : Nat} {l : List Byte} (hdest : destRange s i = (a, n)) (hlen : l.length ≤ n)
    (hfit : a + n ≤ s.dmemBytes) (hkey : s.keyv = true) : Wrote s i ((s.deriveSubkeys s.key).storeBytes a l)

/-! ### Lengths of what is stored -/

theorem length_lastBytes_le (k : Nat) (l : List Byte) : (lastBytes k l).length ≤ k := by
  rw [lastBytes, List.length_drop]
  omega

@[simp] theorem length_blockBytes (x : Block) : (blockBytes x).length = 16 := length_toBytes (n := 16) x

@[simp] theorem CurveContext.length_dump (c : CurveContext) : c.dump.length = 120 := by simp [CurveContext.dump]

/-! ### Every command writes what its row says, or faults -/

/-- The end of a command, in terms of what it wrote. -/
theorem exec_next {i : Instr} {s t : State} (h : exec i s = .next t) :
    (∃ u, Wrote s i u ∧ t = u.retire) ∨ Faulted s t := by
  cases i with
  | ld r w addr =>
    exact (execLd_next r w addr h).imp_left fun ⟨_, ht⟩ => ⟨_, .reg _ rfl, ht⟩
  | st r addr =>
    refine (execSt_next r addr h).imp_left ?_
    rintro ⟨w, x, hr, hfit, ht⟩
    exact ⟨_, .bytes (by simp [destRange, hr, BigReg.tag?]) hfit, ht⟩
  | mov rd ra => exact (execMov_next rd ra h).imp_left fun ⟨_, _, ht⟩ => ⟨_, .reg _ rfl, ht⟩
  | ext rd ra => exact (execExt_next rd ra h).imp_left fun ⟨_, _, ht⟩ => ⟨_, .reg _ rfl, ht⟩
  | bncmp ra rb w =>
    exact (execBncmp_next ra rb w h).imp_left fun ⟨_, _, _, _, ht⟩ => ⟨_, .comparison _ _ _ _, ht⟩
  | bnadd rd ra rb rn w =>
    exact (execBnadd_next rd ra rb rn w h).imp_left fun ⟨_, _, _, _, _, _, ht⟩ => ⟨_, .reg _ rfl, ht⟩
  | bnsub rd ra rb w =>
    exact (execBnsub_next rd ra rb w h).imp_left fun ⟨_, _, _, _, ht⟩ => ⟨_, .difference _ _ _ _ _ _, ht⟩
  | bnsubm rd ra rb rn w =>
    exact (execBnsubm_next rd ra rb rn w h).imp_left fun ⟨_, _, _, _, _, _, ht⟩ => ⟨_, .reg _ rfl, ht⟩
  | bnred rd ra rn w => exact (execBnred_next rd ra rn w h).imp_left fun ⟨_, _, _, _, ht⟩ => ⟨_, .reg _ rfl, ht⟩
  | bntomon rd ra rn w => exact (execBntomon_next rd ra rn w h).imp_left fun ⟨_, _, _, _, ht⟩ => ⟨_, .reg _ rfl, ht⟩
  | bnfrommon rd ra rn w =>
    exact (execBnfrommon_next rd ra rn w h).imp_left fun ⟨_, _, _, _, ht⟩ => ⟨_, .reg _ rfl, ht⟩
  | bnmonmul rd ra rb rn w =>
    exact (execBnmonmul_next rd ra rb rn w h).imp_left fun ⟨_, _, _, _, _, _, ht⟩ => ⟨_, .reg _ rfl, ht⟩
  | bnmonexp rd ra rb rn w =>
    exact (execBnmonexp_next rd ra rb rn w h).imp_left fun ⟨_, _, _, _, _, _, ht⟩ => ⟨_, .reg _ rfl, ht⟩
  | bnmoninv rd ra rn w => exact (execBnmoninv_next rd ra rn w h).imp_left fun ⟨_, _, _, _, ht⟩ => ⟨_, .reg _ rfl, ht⟩
  | crvld addr => exact (execCrvld_next addr h).imp_left fun ⟨_, ht⟩ => ⟨_, .curve _ _, ht⟩
  | crvst addr =>
    exact (execCrvst_next addr h).imp_left fun ⟨_, hfit, ht⟩ => ⟨_, .bytes (by simp [destRange]) hfit, ht⟩
  | ptomon rd ra => exact (execPtomon_next rd ra h).imp_left fun ⟨_, _, _, _, _, ht⟩ => ⟨_, .pair _ rfl, ht⟩
  | pfrommon rd ra => exact (execPfrommon_next rd ra h).imp_left fun ⟨_, _, _, _, _, ht⟩ => ⟨_, .pair _ rfl, ht⟩
  | pdbl rd ra => exact (execPdbl_next rd ra h).imp_left fun ⟨_, _, _, _, _, ht⟩ => ⟨_, .pair _ rfl, ht⟩
  | padd rd ra rb =>
    exact (execPadd_next rd ra rb h).imp_left fun ⟨_, _, _, _, _, _, _, _, ht⟩ => ⟨_, .pair _ rfl, ht⟩
  | pmul rd ra rb => exact (execPmul_next rd ra rb h).imp_left fun ⟨_, _, _, _, _, _, _, ht⟩ => ⟨_, .pair _ rfl, ht⟩
  | verify rh rq rr rs =>
    exact (execVerify_next rh rq rr rs h).imp_left fun ⟨_, _, _, _, _, _, _, _, _, _, _, ht⟩ =>
      ⟨_, .verdict _ _ _ _ _, ht⟩
  | keyld len addr => exact (execKeyld_next len addr h).imp_left fun ⟨_, _, ht⟩ => ⟨_, .key _ _ _, ht⟩
  | subkey => exact (execSubkey_next h).imp_left fun ⟨hkey, ht⟩ => ⟨_, .subkeys hkey, ht⟩
  | skst addr =>
    exact (execSkst_next addr h).imp_left fun ⟨_, hfit, ht⟩ => ⟨_, .bytes (by simp [destRange]) hfit, ht⟩
  | cmac16 addr =>
    exact (execCmac16_next addr h).imp_left fun ⟨hkey, _, hfit, ht⟩ =>
      ⟨_, .mac rfl (length_lastBytes_le 16 _) hfit hkey, ht⟩
  | cmac20 addr =>
    exact (execCmac20_next addr h).imp_left fun ⟨hkey, _, hfit, _, ht⟩ =>
      ⟨_, .mac rfl (length_lastBytes_le 20 _) hfit hkey, ht⟩

/-- Every command answers a next state. -/
theorem exec_total (i : Instr) (s : State) : ∃ t, exec i s = .next t := by
  obtain ⟨r, hr⟩ := exec_eq_finish i s
  exact ⟨_, hr⟩

/-! ### What a command leaves alone -/

/-- `t` has the control registers and the surroundings of `s`. -/
structure State.SameControl (s t : State) : Prop where
  cmd : t.cmd = s.cmd
  ovr : t.ovr = s.ovr
  ie : t.ie = s.ie
  msgaddr : t.msgaddr = s.msgaddr
  msglen : t.msglen = s.msglen
  dmemBytes : t.dmemBytes = s.dmemBytes
  agenda : t.agenda = s.agenda
  resp : t.resp = s.resp

section
variable {i : Instr} {s u : State}

theorem Wrote.sameControl (h : Wrote s i u) : s.SameControl u := by
  cases h <;> exact ⟨rfl, rfl, rfl, rfl, rfl, rfl, rfl, rfl⟩

theorem Wrote.err (h : Wrote s i u) : u.err = s.err := by cases h <;> rfl

/-- The curve context has one writer (R29, R30). -/
theorem Wrote.curve_eq (h : Wrote s i u) (hi : ∀ addr, i ≠ .crvld addr) : u.curve = s.curve ∧ u.crv = s.crv := by
  cases h with
  | curve addr c => exact absurd rfl (hi addr)
  | _ => exact ⟨rfl, rfl⟩

/-- The key has one writer (R31). -/
theorem Wrote.key_eq (h : Wrote s i u) (hi : ∀ len addr, i ≠ .keyld len addr) : u.key = s.key ∧ u.keyv = s.keyv := by
  cases h with
  | key len addr k => exact absurd rfl (hi len addr)
  | _ => exact ⟨rfl, rfl⟩

/-- `CMP` has one writer (R28). -/
theorem Wrote.cmp_eq (h : Wrote s i u) (hi : ∀ ra rb w, i ≠ .bncmp ra rb w) : u.cmp = s.cmp := by
  cases h with
  | comparison ra rb w c => exact absurd rfl (hi ra rb w)
  | _ => rfl

/-- `BORROW` has one writer (R27). -/
theorem Wrote.borrow_eq (h : Wrote s i u) (hi : ∀ rd ra rb w, i ≠ .bnsub rd ra rb w) : u.borrow = s.borrow := by
  cases h with
  | difference rd ra rb w r br => exact absurd rfl (hi rd ra rb w)
  | _ => rfl

/-- `V` has one writer among the commands (R26). -/
theorem Wrote.v_eq (h : Wrote s i u) (hi : ∀ rh rq rr rs, i ≠ .verify rh rq rr rs) : u.v = s.v := by
  cases h with
  | verdict rh rq rr rs v => exact absurd rfl (hi rh rq rr rs)
  | _ => rfl

theorem Wrote.reg_eq (h : Wrote s i u) {r : Reg} (hr : r ∉ destRegs i) : u.b.get r = s.b.get r := by
  cases h with
  | reg x hdest =>
    rw [hdest, List.mem_singleton] at hr
    rw [State.setReg_get, if_neg hr]
  | pair P hdest =>
    rw [hdest, List.mem_pair, not_or] at hr
    rw [State.setPair_get, if_neg hr.2, if_neg hr.1]
  | difference rd ra rb w x br => exact (s.setReg_get rd r x).trans (if_neg (List.mem_singleton.not.1 hr))
  | _ => rfl

theorem Wrote.mem_eq (h : Wrote s i u) (hm : s.dmem.wf) {a : Nat}
    (ha : a < (destRange s i).1 ∨ (destRange s i).1 + (destRange s i).2 ≤ a) : u.dmem.read a = s.dmem.read a := by
  cases h with
  | bytes hdest hfit =>
    rw [hdest] at ha
    exact Memory.read_writeBytes_outside hm ha
  | mac hdest hlen hfit hkey =>
    rw [hdest] at ha
    exact Memory.read_writeBytes_outside hm (by omega)
  | _ => rfl

end

theorem State.SameControl.retire {s u : State} (h : s.SameControl u) : s.SameControl u.retire := { h with }

theorem Faulted.sameControl {s t : State} (h : Faulted s t) : s.SameControl t := by
  obtain ⟨c, -, rfl⟩ := h
  exact ⟨rfl, rfl, rfl, rfl, rfl, rfl, rfl, rfl⟩

/-- A command ends with `BUSY = 0`, `DONE = 1` and the control registers as they were (R106). -/
theorem exec_control {i : Instr} {s t : State} (h : exec i s = .next t) :
    t.busy = false ∧ t.done = true ∧ s.SameControl t := by
  rcases exec_next h with ⟨u, hu, rfl⟩ | hfault
  · exact ⟨rfl, rfl, hu.sameControl.retire⟩
  · refine ⟨?_, ?_, hfault.sameControl⟩ <;> rw [hfault.frame]

/-! ### Steps -/

theorem engineStep_total (s : State) : ∃ t, engineStep s = .next t := by
  unfold engineStep
  split
  · split
    · exact exec_total _ s
    · exact ⟨_, rfl⟩
  · exact ⟨_, rfl⟩

theorem eventStep_total (s : State) (e : Event) : ∃ t, eventStep s e = .next t := by
  cases e with
  | complete => exact engineStep_total s
  | _ => exact ⟨_, rfl⟩

theorem step_nil {s : State} (h : s.agenda = []) : step s = engineStep s := by
  unfold step
  rw [h]

theorem step_cons {s : State} {e : Event} {rest : List Event} (h : s.agenda = e :: rest) :
    step s = eventStep { s with agenda := rest } e := by
  unfold step
  rw [h]

theorem step_total (s : State) : ∃ t, step s = .next t := by
  cases h : s.agenda with
  | nil => rw [step_nil h]; exact engineStep_total s
  | cons e rest => rw [step_cons h]; exact eventStep_total _ e

/-! ### The obligations -/

/-- Settles O25: what a command wrote lies in its destinations, and each flag has one writer; a fault writes none of it. -/
theorem commandFrames : Obligations.CommandFrames := by
  intro i s t hm h
  rcases exec_next h with ⟨u, hu, rfl⟩ | hfault
  · exact ⟨fun r hr => hu.reg_eq hr, fun a ha => hu.mem_eq hm ha, hu.cmp_eq, hu.borrow_eq, hu.v_eq⟩
  · rw [hfault.frame]
    exact ⟨fun _ _ => rfl, fun _ _ => rfl, fun _ => rfl, fun _ => rfl, fun _ => rfl⟩

/-- Settles O22: every command ends by `finish`, and neither its writes nor its fault touch a control register. -/
theorem everyCommandCompletes : Obligations.EveryCommandCompletes := by
  refine ⟨fun i s => ?_, step_total⟩
  obtain ⟨t, ht⟩ := exec_total i s
  obtain ⟨hbusy, hdone, hc⟩ := exec_control ht
  exact ⟨t, ht, hbusy, hdone, hc.cmd, hc.ovr, hc.ie, hc.msgaddr, hc.msglen, hc.dmemBytes, hc.agenda, hc.resp⟩

end Sys2Proof.Machine
end

section
/-!
PROOFS. Resets and the invariant: the state after a reset (spec/10_state.md R46, spec/70_reset_and_hazards.md R250 to R252), and
that every step keeps the invariant of the block.
-/

namespace Sys2Proof.Machine

/-! ### The state after a reset -/

theorem isReset_powerOn (n : Nat) (m : Memory) : (State.powerOn n m).IsReset where
  registers r := by simp [State.powerOn, Vector.get_eq_getElem]
  flags := ⟨rfl, rfl, rfl⟩
  curve := ⟨rfl, rfl⟩
  keys := ⟨rfl, rfl, rfl, rfl, rfl⟩
  command := rfl
  status := by simp [State.powerOn, State.statusWord, bitField, cmpBits, errCode]
  idle := ⟨rfl, rfl, rfl, rfl⟩
  control := ⟨rfl, rfl, rfl⟩
  interrupt := rfl

theorem inv_powerOn {n : Nat} {m : Memory} (hn : Config.LegalDmemBytes n) (hm : m.wf) (hr : ∀ c ∈ m, c.1 < n) :
    (State.powerOn n m).Inv where
  memCanonical := hm
  memInRange := hr
  sizeLegal := hn
  busyClean := nofun
  faultDone h := absurd rfl h
  verifyClears := nofun
  noPrimeFault := nofun
  curveBlank _ := rfl
  keyBlank _ := ⟨rfl, rfl, rfl⟩
  subkeysCurrent := nofun

/-- The content of a reset event, cell by cell, is what `DMEM` then holds. -/
theorem Memory.read_ofCells_zipIdx (n : Nat) (bytes : List Byte) (h : bytes.length ≤ n) {a : Nat}
    (ha : a < bytes.length) : (Memory.ofCells n (bytes.zipIdx.map Prod.swap)).read a = bytes[a] := by
  induction bytes using List.reverseRecOn with
  | nil => simp at ha
  | append_singleton l x ih =>
    rw [List.length_append, List.length_singleton] at h ha
    have hcells : Memory.ofCells n ((l ++ [x]).zipIdx.map Prod.swap) =
        (Memory.ofCells n (l.zipIdx.map Prod.swap)).write l.length x := by
      have hl : l.length < n := by omega
      simp [Memory.ofCells, List.zipIdx_append, hl]
    rw [hcells, Memory.read_write _ (Memory.ofCells_sound n _).1]
    by_cases hlast : a = l.length
    · simp [hlast]
    · have hal : a < l.length := by omega
      rw [if_neg hlast, ih (by omega) hal, List.getElem_append_left hal]

/-! ### Updates that keep the invariant -/

section
variable {s u : State}

/-- The invariant does not look at the response, the agenda or the control registers. -/
theorem State.Inv.respond (h : s.Inv) (r : BusResponse) : State.Inv { s with resp := r } := { h with }

theorem State.Inv.withAgenda (h : s.Inv) (l : List Event) : State.Inv { s with agenda := l } := { h with }

/-- What a command wrote keeps the invariant; its end clears `BUSY`. -/
theorem Wrote.inv_retire {i : Instr} (hw : Wrote s i u) (h : s.Inv) : u.retire.Inv := by
  have herr : u.retire.err ≠ some .primeModulusRequired := fun he => h.noPrimeFault (hw.err ▸ he)
  cases hw with
  | bytes hdest hfit =>
    exact { h with
      memCanonical := Memory.wf_writeBytes _ h.memCanonical _ _
      memInRange := Memory.inRange_writeBytes _ _ _ _ h.memInRange hfit
      busyClean := nofun, faultDone := fun _ => rfl, verifyClears := nofun }
  | curve addr c =>
    exact { h with busyClean := nofun, faultDone := fun _ => rfl, verifyClears := nofun, curveBlank := nofun }
  | key len addr k =>
    exact { h with
      busyClean := nofun, faultDone := fun _ => rfl, verifyClears := nofun, keyBlank := nofun, subkeysCurrent := nofun }
  | subkeys hkey =>
    exact { h with
      busyClean := nofun, faultDone := fun _ => rfl, verifyClears := nofun
      keyBlank := fun hk => absurd hk (by simp [hkey])
      subkeysCurrent := fun _ => ⟨hkey, rfl, rfl⟩ }
  | mac hdest hlen hfit hkey =>
    exact { h with
      memCanonical := Memory.wf_writeBytes _ h.memCanonical _ _
      memInRange := Memory.inRange_writeBytes _ _ _ _ h.memInRange (Nat.le_trans (Nat.add_le_add_left hlen _) hfit)
      busyClean := nofun, faultDone := fun _ => rfl, verifyClears := nofun
      keyBlank := fun hk => absurd hk (by simp [hkey])
      subkeysCurrent := fun _ => ⟨hkey, rfl, rfl⟩ }
  | _ => exact { h with busyClean := nofun, faultDone := fun _ => rfl, verifyClears := nofun }

theorem State.Inv.raise (h : s.Inv) {c : FaultCode} (hc : c ≠ .primeModulusRequired) : (s.raise c).Inv :=
  { h with
    busyClean := nofun, faultDone := fun _ => rfl, verifyClears := nofun
    noPrimeFault := fun he => hc (Option.some.inj he) }

theorem State.Inv.exec {i : Instr} {t : State} (h : s.Inv) (ht : exec i s = .next t) : t.Inv := by
  rcases exec_next ht with ⟨u, hu, rfl⟩ | ⟨c, hc, rfl⟩
  · exact hu.inv_retire h
  · exact h.raise hc

theorem State.Inv.engineStep {t : State} (h : s.Inv) (ht : engineStep s = .next t) : t.Inv := by
  rcases engineStep_next ht with ⟨-, rfl⟩ | ⟨i, -, -, hi⟩ | ⟨-, rfl⟩
  · exact h
  · exact h.exec hi
  · exact h.raise (by decide)

/-! ### Host writes keep the invariant -/

theorem State.Inv.overrun (h : s.Inv) : s.overrun.Inv := { h with }

theorem State.Inv.unlessBusy (h : s.Inv) (hu : u.Inv) : (s.unlessBusy u).Inv := by
  unfold State.unlessBusy
  split
  · exact h.overrun
  · exact hu

theorem State.Inv.issue (h : s.Inv) (w : Word) : (s.issue w).Inv := by
  unfold State.issue
  split
  · exact h.overrun
  · next hfree =>
    rw [Bool.or_eq_true, not_or, Option.not_isSome_iff_eq_none] at hfree
    obtain ⟨-, herr⟩ := hfree
    exact { h with
      busyClean := fun _ => ⟨rfl, herr⟩
      faultDone := fun he => absurd herr he
      verifyClears := fun _ hop => if_pos hop }

theorem State.Inv.acknowledge (h : s.Inv) : s.acknowledge.Inv := by
  unfold State.acknowledge
  split
  · exact h
  · next hidle =>
    exact { h with
      busyClean := fun hb => absurd hb hidle
      faultDone := fun he => absurd rfl he
      noPrimeFault := nofun }

theorem State.Inv.writeStatus (h : s.Inv) (w : Word) : (s.writeStatus w).Inv := by
  have hovr : State.Inv (if w.getLsbD 2 then { s with ovr := false } else s) := by
    split
    · exact { h with }
    · exact h
  unfold State.writeStatus
  dsimp only
  split
  · exact hovr.acknowledge
  · exact hovr

theorem State.Inv.writeCtrl (h : s.Inv) (w : Word) : (s.writeCtrl w).Inv := by
  unfold State.writeCtrl
  split
  · exact { inv_powerOn h.sizeLegal h.memCanonical h.memInRange with }
  · exact { h with }

theorem State.Inv.storeBytes (h : s.Inv) {a : Nat} {l : List Byte} (hfit : a + l.length ≤ s.dmemBytes) :
    (s.storeBytes a l).Inv :=
  { h with
    memCanonical := Memory.wf_writeBytes _ h.memCanonical _ _
    memInRange := Memory.inRange_writeBytes _ _ _ _ h.memInRange hfit }

/-- A write of a word keeps the invariant, at every target of the bus map: a `DMEM` word lies in range (R5, R61). -/
theorem State.Inv.writeAt (h : s.Inv) (size : AccessSize) (o : BitVec 17) (w : Word) :
    (s.writeAt w (s.busTarget size o)).Inv := by
  cases htarget : s.busTarget size o with
  | cmd => exact h.issue w
  | status => exact h.writeStatus w
  | ctrl => exact h.writeCtrl w
  | msgaddr => exact h.unlessBusy { h with }
  | msglen => exact h.unlessBusy { h with }
  | dmem a =>
    obtain ⟨h4, ha, -⟩ := State.busTarget_dmem htarget
    obtain ⟨hsize, -, -⟩ := h.sizeLegal
    exact h.unlessBusy (h.storeBytes (by rw [length_toBytes]; omega))
  | _ => exact h

theorem State.Inv.hostWrite (h : s.Inv) (size : AccessSize) (o : BitVec 17) (w : Word) : (s.hostWrite size o w).Inv := by
  rcases s.hostWrite_eq size o w with ⟨-, heq⟩ | ⟨-, heq⟩
  · rw [heq]; exact h.respond _
  · rw [heq]; exact (h.writeAt size o w).respond _

theorem State.Inv.hostRead (h : s.Inv) (size : AccessSize) (o : BitVec 17) : (s.hostRead size o).Inv := by
  obtain ⟨r, hr⟩ := s.hostRead_eq size o
  rw [hr]
  exact h.respond r

theorem State.Inv.hardReset (h : s.Inv) (content : List Host.Cell) : (s.hardReset content).Inv := by
  obtain ⟨hwf, hrange⟩ := Memory.ofCells_sound s.dmemBytes content
  exact { inv_powerOn h.sizeLegal hwf hrange with }

end

/-! ### The obligations -/

/-- Settles O20: whatever is next on the agenda, what it does to the block keeps the invariant. -/
theorem stepKeepsInvariant : Obligations.StepKeepsInvariant := by
  intro s t h ht
  rcases step_next ht with ⟨u, ⟨-, rfl⟩ | ⟨rest, -, rfl⟩, hu⟩ | ⟨rest, hevent⟩
  · exact h.engineStep hu
  · exact (h.withAgenda rest).engineStep hu
  · rcases hevent with ⟨size, o, -, rfl⟩ | ⟨size, o, w, -, rfl⟩ | ⟨content, -, rfl⟩
    · exact (h.withAgenda rest).hostRead size o
    · exact (h.withAgenda rest).hostWrite size o w
    · exact (h.withAgenda rest).hardReset content

/-- Settles O19: the reset state is a power-on with an empty `DMEM`, and a power-on with any cells is sound. -/
theorem resetStateSound : Obligations.ResetStateSound := by
  refine ⟨isReset_powerOn _ _, inv_powerOn (by decide) ⟨.nil, nofun⟩ nofun, fun n cells hn => ?_⟩
  obtain ⟨hwf, hrange⟩ := Memory.ofCells_sound n cells
  exact inv_powerOn hn hwf hrange

/-- Settles O17: the write of `CTRL` makes a soft reset, which powers the block on with the same `DMEM`. -/
theorem softResetKeepsDmem : Obligations.SoftResetKeepsDmem := by
  intro s w rest hw h
  refine ⟨_, step_busWrite_mapped h s.busTarget_ctrl nofun (if_pos hw), ?_, rfl, rfl, rfl⟩
  exact { isReset_powerOn s.dmemBytes s.dmem with }

/-- Settles O18: a hardware reset powers the block on with the content of its event; any byte string is such a content. -/
theorem hardResetLeavesAnyDmem : Obligations.HardResetLeavesAnyDmem := by
  refine ⟨fun s content rest h => ?_, fun s bytes rest hlen => ?_⟩
  · refine ⟨_, step_cons h, ?_, rfl, rfl, (Memory.ofCells_sound s.dmemBytes content).1⟩
    exact { isReset_powerOn s.dmemBytes (Memory.ofCells s.dmemBytes content) with }
  · refine ⟨bytes.zipIdx.map Prod.swap, _, rfl, ?_⟩
    refine List.ext_getElem (by simp [hlen]) fun a h₁ h₂ => ?_
    rw [Memory.getElem_readBytes, Nat.zero_add]
    exact Memory.read_ofCells_zipIdx s.dmemBytes bytes (by omega) h₂

end Sys2Proof.Machine
end

section
/-!
PROOFS. Completion and the host's writes, event by event (spec/30_encoding.md R106, spec/20_memory.md R69, spec/10_state.md R37,
spec/60_exceptions.md R233, R236), and what no step changes: the curve context, the key and the registers (R44), and the bus as
seen by someone who does not know the keys (R239).
-/

namespace Sys2Proof.Machine

/-! ### Completion -/

theorem engineStep_busy {s : State} {i : Instr} (hbusy : s.busy = true) (hi : decode s.cmd = .ok i) :
    engineStep s = exec i s := by
  unfold engineStep
  rw [if_pos hbusy, hi]

/-- A completion has no effect on an idle block (R240). -/
theorem engineStep_idle {s : State} (hidle : s.busy = false) : engineStep s = .next s := by
  simp [engineStep, hidle]

/-- The completion of a busy block ends with `BUSY = 0`, whatever its word is. -/
theorem engineStep_ends_idle {s t : State} (h : engineStep s = .next t) : t.busy = false := by
  rcases engineStep_next h with ⟨hidle, rfl⟩ | ⟨i, -, -, hi⟩ | ⟨-, rfl⟩
  · exact hidle
  · exact (exec_control hi).1
  · rfl

theorem engineStep_agenda {s t : State} (h : engineStep s = .next t) : t.agenda = s.agenda := by
  rcases engineStep_next h with ⟨-, rfl⟩ | ⟨i, -, -, hi⟩ | ⟨-, rfl⟩
  · rfl
  · exact (exec_control hi).2.2.agenda
  · rfl

/-! ### The rules of the host's writes -/

/-- While busy the engine's inputs are not written (R69). -/
theorem State.unlessBusy_of_busy {s : State} (t : State) (h : s.busy = true) : s.unlessBusy t = s.overrun := by
  simp [State.unlessBusy, h]

theorem State.issue_of_busy {s : State} (w : Word) (h : s.busy = true) : s.issue w = s.overrun := by
  simp [State.issue, h]

theorem State.issue_of_ready {s : State} (w : Word) (hidle : s.busy = false) (herr : s.err = none) :
    s.issue w = s.accept w := by
  simp [State.issue, hidle, herr]

/-- A write of `STATUS`, field by field (R37): bit 2 clears `OVR`, bit 1 acknowledges. -/
theorem State.writeStatus_eq (s : State) (w : Word) : s.writeStatus w = { s with
    ovr := s.ovr && !w.getLsbD 2
    done := s.done && !(w.getLsbD 1 && !s.busy)
    err := if w.getLsbD 1 = true ∧ s.busy = false then none else s.err } := by
  have hovr : (if w.getLsbD 2 then { s with ovr := false } else s) = { s with ovr := s.ovr && !w.getLsbD 2 } := by
    cases w.getLsbD 2 <;> simp
  unfold State.writeStatus
  rw [hovr]
  cases w.getLsbD 1 with
  | false => simp
  | true => cases hb : s.busy <;> simp [State.acknowledge]

/-- While busy a write of `STATUS` clears `OVR` at most (R37, R69). -/
theorem State.writeStatus_of_busy {s : State} (w : Word) (h : s.busy = true) :
    s.writeStatus w = { s with ovr := s.ovr && !w.getLsbD 2 } := by
  simp [State.writeStatus_eq, h]

/-! ### The bits of `STATUS` -/

theorem getLsbD_bitField (x : Bool) {k j : Nat} (hj : j < 32) : (bitField x k).getLsbD j = (x && decide (j = k)) := by
  cases x with
  | false => simp [bitField]
  | true =>
    simp only [bitField, if_true, BitVec.getLsbD_shiftLeft, BitVec.getLsbD_one, hj]
    rw [Bool.eq_iff_iff]
    simp
    omega

/-- A field of `len` bits at bit `lo` of a word. -/
theorem getLsbD_fieldAt {len : Nat} (x : BitVec len) {lo j : Nat} (hj : j < 32) :
    (x.setWidth 32 <<< lo).getLsbD j = (decide (lo ≤ j) && x.getLsbD (j - lo)) := by
  rw [BitVec.getLsbD_shiftLeft, BitVec.getLsbD_setWidth, decide_eq_true hj, decide_eq_true (by omega : j - lo < 32),
    Bool.true_and, Bool.true_and, ← decide_not, decide_eq_decide.2 Nat.not_lt]

/-- `STATUS`, bit by bit (R37). -/
theorem State.getLsbD_statusWord (s : State) {j : Nat} (hj : j < 32) : s.statusWord.getLsbD j =
    (s.busy && decide (j = 0) || s.done && decide (j = 1) || s.ovr && decide (j = 2) || s.v && decide (j = 3) ||
      s.borrow && decide (j = 4) || decide (5 ≤ j) && (cmpBits s.cmp).getLsbD (j - 5) || s.crv && decide (j = 8) ||
      s.keyv && decide (j = 9) || s.skv && decide (j = 10) || decide (16 ≤ j) && (errCode s.err).getLsbD (j - 16)) := by
  simp only [State.statusWord, BitVec.getLsbD_or, getLsbD_bitField _ hj, getLsbD_fieldAt _ hj]

/-- The two bits of `CMP` (R28). -/
theorem getLsbD_cmpBits (c : Ordering) (k : Nat) :
    (cmpBits c).getLsbD k = (decide (k = 0 ∧ c ≠ .eq) || decide (k = 1 ∧ c = .lt)) := by
  match k with
  | 0 => cases c <;> rfl
  | 1 => cases c <;> rfl
  | k + 2 => simp

/-! ### What a host write leaves alone -/

/-- `t` has the registers, the curve context and the key of `s`. -/
structure State.SameEngine (s t : State) : Prop where
  b : t.b = s.b
  curve : t.curve = s.curve
  crv : t.crv = s.crv
  key : t.key = s.key
  keyv : t.keyv = s.keyv

section
variable {s u : State}

theorem State.SameEngine.refl (s : State) : s.SameEngine s := ⟨rfl, rfl, rfl, rfl, rfl⟩

theorem State.SameEngine.unlessBusy (h : s.SameEngine u) : s.SameEngine (s.unlessBusy u) := by
  unfold State.unlessBusy
  split
  · exact { State.SameEngine.refl s with }
  · exact h

theorem State.sameEngine_issue (s : State) (w : Word) : s.SameEngine (s.issue w) := by
  unfold State.issue
  split <;> exact { State.SameEngine.refl s with }

/-- No write but the soft reset touches registers, curve context or key (R44, R68). -/
theorem State.sameEngine_writeAt (s : State) {w : Word} {target : BusTarget}
    (h : target = .ctrl → w.getLsbD 31 = false) : s.SameEngine (s.writeAt w target) := by
  cases target with
  | cmd => exact s.sameEngine_issue w
  | status =>
    show s.SameEngine (s.writeStatus w)
    rw [State.writeStatus_eq]
    exact { State.SameEngine.refl s with }
  | ctrl =>
    show s.SameEngine (s.writeCtrl w)
    rw [State.writeCtrl_of_not_reset s (h rfl)]
    exact { State.SameEngine.refl s with }
  | msgaddr => exact State.SameEngine.unlessBusy { State.SameEngine.refl s with }
  | msglen => exact State.SameEngine.unlessBusy { State.SameEngine.refl s with }
  | dmem a => exact State.SameEngine.unlessBusy { State.SameEngine.refl s with }
  | _ => exact State.SameEngine.refl s

theorem State.unlessBusy_dmem (h : u.dmem = s.dmem) : (s.unlessBusy u).dmem = s.dmem := by
  unfold State.unlessBusy
  split
  · rfl
  · exact h

/-- `DMEM` is written at its own offsets only, and kept by the soft reset (R61, R252). -/
theorem State.writeAt_dmem (s : State) (w : Word) {target : BusTarget} (h : ∀ a, target ≠ .dmem a) :
    (s.writeAt w target).dmem = s.dmem := by
  cases target with
  | cmd => show (s.issue w).dmem = _; unfold State.issue; split <;> rfl
  | status => show (s.writeStatus w).dmem = _; rw [State.writeStatus_eq]
  | ctrl => show (s.writeCtrl w).dmem = _; unfold State.writeCtrl; split <;> rfl
  | msgaddr => exact State.unlessBusy_dmem rfl
  | msglen => exact State.unlessBusy_dmem rfl
  | dmem a => exact absurd rfl (h a)
  | _ => rfl

/-- The host's writes do not touch the agenda, not even the soft reset (log 4). -/
theorem State.writeAt_agenda (s : State) (w : Word) (target : BusTarget) : (s.writeAt w target).agenda = s.agenda := by
  cases target with
  | cmd => show (s.issue w).agenda = _; unfold State.issue; split <;> rfl
  | status => show (s.writeStatus w).agenda = _; rw [State.writeStatus_eq]
  | ctrl => show (s.writeCtrl w).agenda = _; unfold State.writeCtrl; split <;> rfl
  | msgaddr => show (s.unlessBusy _).agenda = _; unfold State.unlessBusy; split <;> rfl
  | msglen => show (s.unlessBusy _).agenda = _; unfold State.unlessBusy; split <;> rfl
  | dmem a => show (s.unlessBusy _).agenda = _; unfold State.unlessBusy; split <;> rfl
  | _ => rfl

theorem State.hostWrite_agenda (s : State) (size : AccessSize) (o : BitVec 17) (w : Word) :
    (s.hostWrite size o w).agenda = s.agenda := by
  rcases s.hostWrite_eq size o w with ⟨-, heq⟩ | ⟨-, heq⟩
  · rw [heq]
  · rw [heq]; exact s.writeAt_agenda w _

end

/-- `CTRL` stands at one offset. -/
theorem State.busTarget_eq_ctrl {s : State} {size : AccessSize} {o : BitVec 17} (h : s.busTarget size o = .ctrl) :
    size = .word ∧ o = 0x0000C := by
  obtain ⟨hsize, -⟩ := State.busTarget_word (h ▸ BusTarget.noConfusion : s.busTarget size o ≠ .unmapped)
  refine ⟨hsize, BitVec.eq_of_toNat_eq ?_⟩
  unfold State.busTarget busMap at h
  grind

/-! ### A step takes one event -/

/-- A step takes the first event off the agenda and changes no other. -/
theorem step_agenda {s t : State} (h : step s = .next t) : t.agenda = s.agenda.tail := by
  rcases step_next h with ⟨u, ⟨ha, rfl⟩ | ⟨rest, ha, rfl⟩, hu⟩ | ⟨rest, hevent⟩
  · rw [engineStep_agenda hu, ha]; rfl
  · rw [engineStep_agenda hu, ha]; rfl
  · rcases hevent with ⟨size, o, ha, rfl⟩ | ⟨size, o, w, ha, rfl⟩ | ⟨content, ha, rfl⟩
    · rw [State.hostRead_frame, ha]; rfl
    · rw [State.hostWrite_agenda, ha]; rfl
    · rw [ha]; rfl

/-- With nothing left on the agenda the step is the completion, and the block is idle (R106). -/
theorem step_ends_idle_of_agenda_nil {s t : State} (ha : s.agenda = []) (h : step s = .next t) : t.busy = false :=
  engineStep_ends_idle (step_nil ha ▸ h)

/-- One step, then the rest of the run, of any machine. -/
theorem coreRun_succ (M : Host.Core) {s t : M.State} (h : M.step s = .next t) (k : Nat) :
    M.run (k + 1) s = M.run k t := by
  rw [Host.Core.run, h]

theorem run_succ {s t : State} (h : step s = .next t) (k : Nat) :
    Host.Core.run core (k + 1) s = Host.Core.run core k t := coreRun_succ core h k

/-! ### Two blocks that differ in the keys only -/

/-- The state with other keys. -/
def State.withKeys (s : State) (k k1 k2 : Block) : State := { s with key := k, k1 := k1, k2 := k2 }

theorem State.sameButKeys_iff {s t : State} :
    s.SameButKeys t ↔ ∃ k k1 k2, t = s.withKeys k k1 k2 := by
  constructor
  · exact fun h => ⟨_, _, _, h⟩
  · rintro ⟨k, k1, k2, rfl⟩
    rfl

/-- Two sequences of checks that end in the same fault, or in states that differ in the keys only. -/
inductive SameRun : Except FaultCode State → Except FaultCode State → Prop where
  | ok {s t : State} (h : s.SameButKeys t) : SameRun (.ok s) (.ok t)
  | error (c : FaultCode) : SameRun (.error c) (.error c)

/-- The same check, then runs that agree. -/
theorem SameRun.bind {α : Type} (x : Except FaultCode α) {f g : α → Except FaultCode State}
    (h : ∀ a, SameRun (f a) (g a)) : SameRun (x >>= f) (x >>= g) := by
  cases x with
  | ok a => exact h a
  | error c => exact .error c

/-- Two outcomes whose states differ in the keys only. -/
def SameNext (x y : Outcome) : Prop := ∃ s t, x = .next s ∧ y = .next t ∧ s.SameButKeys t

theorem sameNext_next {s t : State} (h : s.SameButKeys t) : SameNext (.next s) (.next t) := ⟨s, t, rfl, rfl, h⟩

/-- Ending two runs that agree. -/
theorem SameRun.finish {s : State} {k k1 k2 : Block} {x y : Except FaultCode State} (h : SameRun x y) :
    SameNext (s.finish x) ((s.withKeys k k1 k2).finish y) := by
  cases h with
  | ok h =>
    obtain ⟨_, _, _, rfl⟩ := State.sameButKeys_iff.1 h
    exact sameNext_next rfl
  | error c => exact sameNext_next rfl

theorem State.setReg_sameButKeys (s : State) (k k1 k2 : Block) (rd : Reg) (r : BigReg) :
    (s.setReg rd r).SameButKeys ((s.withKeys k k1 k2).setReg rd r) := rfl

theorem State.storeBytes_sameButKeys (s : State) (k k1 k2 : Block) (a : Nat) (l : List Byte) :
    (s.storeBytes a l).SameButKeys ((s.withKeys k k1 k2).storeBytes a l) := rfl

theorem State.setPair_sameButKeys (s : State) (k k1 k2 : Block) (rd : Reg) (P : Point) :
    (s.setPair rd P).SameButKeys ((s.withKeys k k1 k2).setPair rd P) := rfl

/-- No command but `SKST`, `CMAC16` and `CMAC20` lets the keys reach anything else (R31, R239): its checks do not look at them,
and what it writes does not depend on them. -/
theorem exec_sameButKeys (s : State) (k k1 k2 : Block) {i : Instr} (hskst : ∀ addr, i ≠ .skst addr)
    (hmac16 : ∀ addr, i ≠ .cmac16 addr) (hmac20 : ∀ addr, i ≠ .cmac20 addr) :
    SameNext (exec i s) (exec i (s.withKeys k k1 k2)) := by
  cases i with
  | skst addr => exact absurd rfl (hskst addr)
  | cmac16 addr => exact absurd rfl (hmac16 addr)
  | cmac20 addr => exact absurd rfl (hmac20 addr)
  | ld r w addr => exact SameRun.finish (.bind _ fun _ => .ok (s.setReg_sameButKeys ..))
  | st r addr => exact SameRun.finish (.bind _ fun _ => .bind _ fun _ => .ok (s.storeBytes_sameButKeys ..))
  | mov rd ra => exact SameRun.finish (.bind _ fun ⟨_, _⟩ => .ok (s.setReg_sameButKeys ..))
  | ext rd ra => exact SameRun.finish (.bind _ fun _ => .ok (s.setReg_sameButKeys ..))
  | bncmp ra rb w => exact SameRun.finish (.bind _ fun _ => .bind _ fun _ => .ok rfl)
  | bnadd rd ra rb rn w =>
    exact SameRun.finish (.bind _ fun _ => .bind _ fun _ => .bind _ fun _ => .ok (s.setReg_sameButKeys ..))
  | bnsub rd ra rb w => exact SameRun.finish (.bind _ fun _ => .bind _ fun _ => .ok rfl)
  | bnsubm rd ra rb rn w =>
    exact SameRun.finish (.bind _ fun _ => .bind _ fun _ => .bind _ fun _ => .ok (s.setReg_sameButKeys ..))
  | bnred rd ra rn w => exact SameRun.finish (.bind _ fun _ => .bind _ fun _ => .ok (s.setReg_sameButKeys ..))
  | bntomon rd ra rn w => exact SameRun.finish (.bind _ fun _ => .bind _ fun _ => .ok (s.setReg_sameButKeys ..))
  | bnfrommon rd ra rn w => exact SameRun.finish (.bind _ fun _ => .bind _ fun _ => .ok (s.setReg_sameButKeys ..))
  | bnmonmul rd ra rb rn w =>
    exact SameRun.finish (.bind _ fun _ => .bind _ fun _ => .bind _ fun _ => .ok (s.setReg_sameButKeys ..))
  | bnmonexp rd ra rb rn w =>
    exact SameRun.finish (.bind _ fun _ => .bind _ fun ⟨_, _⟩ => .bind _ fun _ => .ok (s.setReg_sameButKeys ..))
  | bnmoninv rd ra rn w => exact SameRun.finish (.bind _ fun _ => .bind _ fun _ => .ok (s.setReg_sameButKeys ..))
  | crvld addr => exact SameRun.finish (.bind _ fun _ => .ok rfl)
  | crvst addr => exact SameRun.finish (.bind _ fun _ => .bind _ fun _ => .ok (s.storeBytes_sameButKeys ..))
  | ptomon rd ra =>
    exact SameRun.finish (.bind _ fun _ => .bind _ fun _ => .bind _ fun _ => .ok (s.setPair_sameButKeys ..))
  | pfrommon rd ra =>
    exact SameRun.finish (.bind _ fun _ => .bind _ fun _ => .bind _ fun _ => .ok (s.setPair_sameButKeys ..))
  | pdbl rd ra =>
    exact SameRun.finish (.bind _ fun _ => .bind _ fun _ => .bind _ fun _ => .ok (s.setPair_sameButKeys ..))
  | padd rd ra rb =>
    exact SameRun.finish (.bind _ fun _ => .bind _ fun _ => .bind _ fun _ => .bind _ fun _ =>
      .ok (s.setPair_sameButKeys ..))
  | pmul rd ra rb =>
    refine SameRun.finish (.bind _ fun _ => .bind _ fun _ => .bind _ fun _ => .bind _ fun ⟨w, x⟩ => ?_)
    exact .ok (s.setPair_sameButKeys k k1 k2 rd _)
  | verify rh rq rr rs =>
    exact SameRun.finish (.bind _ fun _ => .bind _ fun _ => .bind _ fun _ => .bind _ fun _ => .bind _ fun _ =>
      .bind _ fun _ => .ok rfl)
  | keyld len addr => exact SameRun.finish (.bind _ fun _ => .bind _ fun _ => .ok rfl)
  | subkey =>
    refine SameRun.finish ?_
    simp only [State.operandKey, bind_assoc]
    exact .bind _ fun _ => .ok rfl

theorem State.issue_sameButKeys (s : State) (k k1 k2 : Block) (w : Word) :
    (s.issue w).SameButKeys ((s.withKeys k k1 k2).issue w) := by
  by_cases hbusy : s.busy = true
  · rw [State.issue_of_busy w hbusy, State.issue_of_busy (s := s.withKeys k k1 k2) w hbusy]
    rfl
  · by_cases herr : s.err = none
    · rw [Bool.not_eq_true] at hbusy
      rw [State.issue_of_ready w hbusy herr, State.issue_of_ready (s := s.withKeys k k1 k2) w hbusy herr]
      rfl
    · rw [State.issue_of_fault w herr, State.issue_of_fault (s := s.withKeys k k1 k2) w herr]
      rfl

theorem State.unlessBusy_sameButKeys {s u v : State} {k k1 k2 : Block} (h : u.SameButKeys v) :
    (s.unlessBusy u).SameButKeys ((s.withKeys k k1 k2).unlessBusy v) := by
  cases hb : s.busy with
  | true => rw [State.unlessBusy_of_busy _ hb, State.unlessBusy_of_busy (s := s.withKeys k k1 k2) _ hb]; rfl
  | false =>
    rw [State.unlessBusy_of_idle _ hb, State.unlessBusy_of_idle (s := s.withKeys k k1 k2) _ hb]
    exact h

theorem State.writeCtrl_sameButKeys (s : State) (k k1 k2 : Block) (w : Word) :
    (s.writeCtrl w).SameButKeys ((s.withKeys k k1 k2).writeCtrl w) := by
  unfold State.writeCtrl
  split <;> rfl

theorem State.writeAt_sameButKeys (s : State) (k k1 k2 : Block) (w : Word) (target : BusTarget) :
    (s.writeAt w target).SameButKeys ((s.withKeys k k1 k2).writeAt w target) := by
  cases target with
  | cmd => exact s.issue_sameButKeys k k1 k2 w
  | status =>
    simp only [State.writeAt, State.writeStatus_eq]
    rfl
  | ctrl => exact s.writeCtrl_sameButKeys k k1 k2 w
  | msgaddr | msglen | dmem => exact State.unlessBusy_sameButKeys rfl
  | _ => rfl

theorem State.hostRead_sameButKeys (s : State) (k k1 k2 : Block) (size : AccessSize) (o : BitVec 17) :
    (s.hostRead size o).SameButKeys (State.hostRead (s.withKeys k k1 k2) size o) := by
  have hword : State.wordAt (s.withKeys k k1 k2)
      (State.busTarget (s.withKeys k k1 k2) size o) = s.wordAt (s.busTarget size o) := by
    show State.wordAt _ (s.busTarget size o) = _
    cases s.busTarget size o <;> rfl
  unfold State.hostRead
  rw [hword]
  split <;> rfl

theorem State.hostWrite_sameButKeys (s : State) (k k1 k2 : Block) (size : AccessSize) (o : BitVec 17) (w : Word) :
    (s.hostWrite size o w).SameButKeys (State.hostWrite (s.withKeys k k1 k2) size o w) := by
  obtain ⟨_, _, _, hwrite⟩ := State.sameButKeys_iff.1 (s.writeAt_sameButKeys k k1 k2 w (s.busTarget size o))
  rcases s.hostWrite_eq size o w with ⟨hunmapped, heq⟩ | ⟨hmapped, heq⟩
  · rw [heq, State.hostWrite_unmapped (s := s.withKeys k k1 k2) w hunmapped]
    rfl
  · rcases State.hostWrite_eq (s.withKeys k k1 k2) size o w with ⟨hunmapped, -⟩ | ⟨-, heq'⟩
    · exact absurd hunmapped hmapped
    · rw [heq, heq']
      exact State.sameButKeys_iff.2 ⟨_, _, _, congrArg (fun u : State => { u with resp := .done }) hwrite⟩

/-- The completion, where it does not execute `SKST`, `CMAC16` or `CMAC20`. -/
theorem engineStep_sameButKeys (s : State) (k k1 k2 : Block)
    (h : s.busy = true → ∀ addr, decode s.cmd ≠ .ok (.skst addr) ∧ decode s.cmd ≠ .ok (.cmac16 addr) ∧
      decode s.cmd ≠ .ok (.cmac20 addr)) :
    SameNext (engineStep s) (engineStep (s.withKeys k k1 k2)) := by
  cases hbusy : s.busy with
  | false =>
    rw [engineStep_idle hbusy, engineStep_idle (s := s.withKeys k k1 k2) hbusy]
    exact sameNext_next rfl
  | true =>
    cases hd : decode s.cmd with
    | ok i =>
      rw [engineStep_busy hbusy hd, engineStep_busy (s := s.withKeys k k1 k2) hbusy hd]
      refine exec_sameButKeys s k k1 k2 ?_ ?_ ?_
      · rintro addr rfl; exact (h hbusy addr).1 hd
      · rintro addr rfl; exact (h hbusy addr).2.1 hd
      · rintro addr rfl; exact (h hbusy addr).2.2 hd
    | error e =>
      have hillegal : ∀ i, decode s.cmd ≠ .ok i := by simp [hd]
      rw [engineStep_illegal hbusy hillegal,
        engineStep_illegal (s := s.withKeys k k1 k2) hbusy hillegal]
      exact sameNext_next rfl

/-! ### The obligations -/

/-- Settles O26: event by event, nothing but the three commands lets the keys reach another field. -/
theorem keysDoNotLeak : Obligations.KeysDoNotLeak := by
  intro s t hst h
  obtain ⟨k, k1, k2, rfl⟩ := State.sameButKeys_iff.1 hst
  cases ha : s.agenda with
  | nil =>
    rw [step_nil ha, step_nil (s := s.withKeys k k1 k2) ha]
    exact engineStep_sameButKeys s k k1 k2 fun hbusy => h ⟨hbusy, .inl ha⟩
  | cons e rest =>
    rw [step_cons ha, step_cons (s := s.withKeys k k1 k2) ha]
    cases e with
    | complete =>
      exact engineStep_sameButKeys { s with agenda := rest } k k1 k2 fun hbusy => h ⟨hbusy, .inr ⟨rest, ha⟩⟩
    | busRead size o => exact sameNext_next (State.hostRead_sameButKeys { s with agenda := rest } k k1 k2 size o)
    | busWrite size o w => exact sameNext_next (State.hostWrite_sameButKeys { s with agenda := rest } k k1 k2 size o w)
    | hardReset content => exact sameNext_next rfl

/-- Settles O24: the completion changes the curve context and the key by their load commands only; a host write other than the
soft reset leaves the engine alone, and `DMEM` too unless it is written. -/
theorem contextAndKeyPersist : Obligations.ContextAndKeyPersist := by
  intro s t h hnohard hnosoft
  rcases step_next h with ⟨u, hdue, hu⟩ | ⟨rest, hevent⟩
  · obtain ⟨rest, rfl, hcompletes⟩ : ∃ rest, u = { s with agenda := rest } ∧ (s.busy = true → s.completes) := by
      rcases hdue with ⟨ha, rfl⟩ | ⟨rest, ha, rfl⟩
      · exact ⟨u.agenda, rfl, fun hb => ⟨hb, .inl ha⟩⟩
      · exact ⟨rest, rfl, fun hb => ⟨hb, .inr ⟨rest, ha⟩⟩⟩
    rcases engineStep_next hu with ⟨-, rfl⟩ | ⟨i, hbusy, hi, hexec⟩ | ⟨hbusy, rfl⟩
    · exact ⟨fun _ => ⟨rfl, rfl⟩, fun _ => ⟨rfl, rfl⟩, fun _ => rfl, fun _ _ => rfl⟩
    · have hc := hcompletes hbusy
      refine ⟨fun hcurve => ?_, fun hkey => ?_, fun hn => absurd hc hn, fun hn => absurd hc hn⟩
      · rcases exec_next hexec with ⟨v, hv, rfl⟩ | ⟨c, -, rfl⟩
        · exact hv.curve_eq fun addr hia => hcurve hc addr (hia ▸ hi)
        · exact ⟨rfl, rfl⟩
      · rcases exec_next hexec with ⟨v, hv, rfl⟩ | ⟨c, -, rfl⟩
        · exact hv.key_eq fun len addr hia => hkey hc len addr (hia ▸ hi)
        · exact ⟨rfl, rfl⟩
    · have hc := hcompletes hbusy
      exact ⟨fun _ => ⟨rfl, rfl⟩, fun _ => ⟨rfl, rfl⟩, fun _ => rfl, fun _ _ => rfl⟩
  · rcases hevent with ⟨size, o, ha, rfl⟩ | ⟨size, o, w, ha, rfl⟩ | ⟨content, ha, -⟩
    · rw [State.hostRead_frame]
      exact ⟨fun _ => ⟨rfl, rfl⟩, fun _ => ⟨rfl, rfl⟩, fun _ => rfl, fun _ _ => rfl⟩
    · rcases State.hostWrite_eq { s with agenda := rest } size o w with ⟨-, heq⟩ | ⟨hmapped, heq⟩
      · rw [heq]
        exact ⟨fun _ => ⟨rfl, rfl⟩, fun _ => ⟨rfl, rfl⟩, fun _ => rfl, fun _ _ => rfl⟩
      · rw [heq]
        have hengine := State.sameEngine_writeAt { s with agenda := rest } (w := w)
          (target := State.busTarget { s with agenda := rest } size o) (fun hctrl => by
            obtain ⟨rfl, rfl⟩ := State.busTarget_eq_ctrl hctrl
            exact Bool.eq_false_iff.2 fun hw => hnosoft w rest hw ha)
        refine ⟨fun _ => ⟨hengine.curve, hengine.crv⟩, fun _ => ⟨hengine.key, hengine.keyv⟩, fun _ => hengine.b,
          fun _ hnodmem => ?_⟩
        refine State.writeAt_dmem _ w fun a htarget => ?_
        obtain ⟨rfl, -⟩ := State.busTarget_word hmapped
        obtain ⟨-, -, ho⟩ := State.busTarget_dmem htarget
        exact hnodmem o w rest (by omega) ha
    · exact absurd ha (hnohard content rest)

/-- Settles O23: by induction on the agenda; the step that finds it empty is a completion. -/
theorem busyBlockBecomesIdle : Obligations.BusyBlockBecomesIdle := by
  intro s hbusy
  generalize hl : s.agenda = l
  induction l generalizing s with
  | nil =>
    obtain ⟨t, ht⟩ := step_total s
    exact ⟨1, Nat.le_refl _, t, run_succ ht 0, step_ends_idle_of_agenda_nil hl ht⟩
  | cons e rest ih =>
    obtain ⟨t, ht⟩ := step_total s
    cases hb : t.busy with
    | false => exact ⟨1, Nat.le_add_left .., t, run_succ ht 0, hb⟩
    | true =>
      obtain ⟨k, hk, u, hu, hidle⟩ := ih t hb (by rw [step_agenda ht, hl, List.tail_cons])
      exact ⟨k + 1, by simpa using hk, u, (run_succ ht k).trans hu, hidle⟩

/-- Settles O7: a due completion, or the step with an empty agenda, is the completion of the engine. -/
theorem stepRunsDecodedCommand : Obligations.StepRunsDecodedCommand := by
  intro s hbusy
  refine ⟨fun i hi => ⟨fun ha => ?_, fun rest ha => ?_⟩, fun e he => ?_⟩
  · rw [step_nil ha, engineStep_busy hbusy hi]
  · rw [step_complete ha]
    exact engineStep_busy (s := { s with agenda := rest }) hbusy hi
  · have hillegal : ∀ i, decode s.cmd ≠ .ok i := by simp [he]
    refine ⟨fun ha => ?_, fun rest ha => step_complete_illegal hbusy ha hillegal⟩
    rw [step_nil ha]
    exact engineStep_illegal hbusy hillegal

/-- Settles O8: an idle block without a fault accepts the word. -/
theorem commandWriteAccepted : Obligations.CommandWriteAccepted := by
  intro s w rest hidle herr h
  exact (step_busWrite_mapped h s.busTarget_cmd nofun (State.issue_of_ready w hidle herr)).trans rfl

/-- Settles O15: the write-1-to-clear bits, field by field. -/
theorem statusWriteAcknowledges : Obligations.StatusWriteAcknowledges := by
  intro s w rest h
  exact (step_busWrite_mapped h s.busTarget_status nofun (State.writeStatus_eq _ w)).trans rfl

/-- Settles O9: each offset names its target, and each target has its rule for a busy block. -/
theorem busyWritesIgnored : Obligations.BusyWritesIgnored := by
  intro s rest hn
  refine ⟨fun o w hbusy h ho => ?ignored, fun w herr h => ?fault, fun w h => ?id, fun w hbusy h => ?status,
    fun w hw h => ?ctrl, fun o h4 hmap h => ?read⟩
  case ignored =>
    rcases ho with rfl | rfl | rfl | ⟨h4, hlo, hhi⟩
    · exact (step_busWrite_mapped h s.busTarget_cmd nofun (State.issue_of_busy w hbusy)).trans rfl
    · exact (step_busWrite_mapped h s.busTarget_msgaddr nofun (State.unlessBusy_of_busy _ hbusy)).trans rfl
    · exact (step_busWrite_mapped h s.busTarget_msglen nofun (State.unlessBusy_of_busy _ hbusy)).trans rfl
    · exact (step_busWrite_mapped h (State.busTarget_dmemOffset h4 hlo hhi) nofun
        (State.unlessBusy_of_busy _ hbusy)).trans rfl
  case fault => exact (step_busWrite_mapped h s.busTarget_cmd nofun (State.issue_of_fault w herr)).trans rfl
  case id => exact (step_busWrite_mapped h s.busTarget_id nofun rfl).trans rfl
  case status => exact (step_busWrite_mapped h s.busTarget_status nofun (State.writeStatus_of_busy w hbusy)).trans rfl
  case ctrl => exact (step_busWrite_mapped h s.busTarget_ctrl nofun (State.writeCtrl_of_not_reset _ hw)).trans rfl
  case read =>
    obtain ⟨x, hx⟩ := State.wordAt_eq_some { s with agenda := rest } (State.busTarget_mapped h4 hmap)
    exact ⟨x, by rw [step_busRead h, State.hostRead_word hx]⟩

/-- Settles O16: a completion leaves `DONE = 1`; acceptance and acknowledge leave `DONE = 0`. -/
theorem interruptFollowsDone : Obligations.InterruptFollowsDone := by
  refine ⟨fun i s t h => ?_, fun s w rest hidle herr h => ?_, fun s w rest hidle hw h => ?_⟩
  · obtain ⟨-, hdone, hcontrol⟩ := exec_control h
    rw [State.irq, hdone, hcontrol.ie, Bool.true_and]
  · exact ⟨_, step_busWrite_mapped h s.busTarget_cmd nofun (State.issue_of_ready w hidle herr), rfl⟩
  · refine ⟨_, step_busWrite_mapped h s.busTarget_status nofun (State.writeStatus_eq _ w), ?_⟩
    simp [State.irq, hidle, hw]

/-- Settles O14: each bit of the word is a bit of one field, or of none. -/
theorem statusFieldsAtTheirBits : Obligations.StatusFieldsAtTheirBits := by
  intro s
  refine ⟨fun k hk => ?_, ?_, rfl, rfl, rfl, rfl, rfl, rfl, rfl, rfl, rfl, rfl⟩
  · rw [s.getLsbD_statusWord hk, getLsbD_cmpBits]
    interval_cases k <;> simp
  · cases s.err with
    | none => simp [errCode]
    | some c => cases c <;> simp [errCode, FaultCode.code]

end Sys2Proof.Machine
end

section
/-!
PROOFS. The decoder and the encoder (spec/30_encoding.md R91 to R101, R105): each undoes the other, and the decoder accepts the
words of the opcode table.
-/

namespace Sys2Proof.Machine

open Sys2Proof.Laws.EncodeOpcode (opcode)

/-! ### Reading a command's fields from a word -/

/-- The command of the same row whose operands are the fields of `w` (formats R91 to R96). -/
def readFields (w : Word) : Instr → Instr
  | .ld .. => .ld (regAt w 20) (widthAt w 16) (addrAt w)
  | .st .. => .st (regAt w 20) (addrAt w)
  | .mov .. => .mov (regAt w 20) (regAt w 16)
  | .ext .. => .ext (regAt w 20) (regAt w 16)
  | .bncmp .. => .bncmp (regAt w 16) (regAt w 12) (widthAt w 0)
  | .bnadd .. => .bnadd (regAt w 20) (regAt w 16) (regAt w 12) (regAt w 8) (widthAt w 0)
  | .bnsub .. => .bnsub (regAt w 20) (regAt w 16) (regAt w 12) (widthAt w 0)
  | .bnsubm .. => .bnsubm (regAt w 20) (regAt w 16) (regAt w 12) (regAt w 8) (widthAt w 0)
  | .bnred .. => .bnred (regAt w 20) (regAt w 16) (regAt w 8) (widthAt w 0)
  | .bntomon .. => .bntomon (regAt w 20) (regAt w 16) (regAt w 8) (widthAt w 0)
  | .bnfrommon .. => .bnfrommon (regAt w 20) (regAt w 16) (regAt w 8) (widthAt w 0)
  | .bnmonmul .. => .bnmonmul (regAt w 20) (regAt w 16) (regAt w 12) (regAt w 8) (widthAt w 0)
  | .bnmonexp .. => .bnmonexp (regAt w 20) (regAt w 16) (regAt w 12) (regAt w 8) (widthAt w 0)
  | .bnmoninv .. => .bnmoninv (regAt w 20) (regAt w 16) (regAt w 8) (widthAt w 0)
  | .crvld .. => .crvld (addrAt w)
  | .crvst .. => .crvst (addrAt w)
  | .ptomon .. => .ptomon (regAt w 20) (regAt w 16)
  | .pfrommon .. => .pfrommon (regAt w 20) (regAt w 16)
  | .pdbl .. => .pdbl (regAt w 20) (regAt w 16)
  | .padd .. => .padd (regAt w 20) (regAt w 16) (regAt w 12)
  | .pmul .. => .pmul (regAt w 20) (regAt w 16) (regAt w 12)
  | .verify .. => .verify (regAt w 20) (regAt w 16) (regAt w 12) (regAt w 8)
  | .keyld .. => .keyld (lenAt w) (addrAt w)
  | .subkey => .subkey
  | .skst .. => .skst (addrAt w)
  | .cmac16 .. => .cmac16 (addrAt w)
  | .cmac20 .. => .cmac20 (addrAt w)

/-- A word with the opcode of a command is checked and read as that command's row says (R105). -/
theorem decode_of_opcode {w : Word} {i : Instr} (h : bitsAt w 24 8 = opcode i) :
    decode w = checkedAs w (zeroFields i) (readFields w i) := by
  cases i <;> (rw [opcode] at h; simp only [decode, h, zeroFields, readFields])

/-- The decoder reads a command's operands from the fields of the word. -/
theorem readFields_of_decode {w : Word} {i : Instr} (h : decode w = .ok i) : readFields w i = i ∧ i.wf = true := by
  obtain ⟨hop, -, -⟩ := decode_eq_ok h
  rw [decode_of_opcode hop] at h
  obtain ⟨hi, hwf, -⟩ := checkedAs_eq_ok h
  exact ⟨hi.symm, by rwa [hi]⟩

/-- A command read from a word is well-formed when the low bit of every point field is clear (R101). -/
theorem wf_readFields {w : Word} {i : Instr} (h : ∀ lo ∈ pointFields i, (regAt w lo).isEven = true) :
    (readFields w i).wf = true := by
  cases i <;> simp_all [pointFields, readFields, Instr.wf]

/-! ### The fields of a packed word -/

theorem val_regAt (w : Word) (lo : Nat) : (regAt w lo).val = bitsAt w lo 4 :=
  Nat.mod_eq_of_lt (Nat.mod_lt _ (by decide))

theorem bit_widthAt (w : Word) (lo : Nat) : (widthAt w lo).bit = bitsAt w lo 1 := by
  have : bitsAt w lo 1 < 2 := Nat.mod_lt _ (by decide)
  unfold widthAt
  split
  · next h => rw [h]; rfl
  · show 1 = _; omega

theorem toNat_addrAt (w : Word) : (addrAt w).toNat = bitsAt w 0 16 := by
  rw [addrAt, BitVec.toNat_ofNat]
  exact Nat.mod_eq_of_lt (Nat.mod_lt _ (by decide))

theorem toNat_lenAt (w : Word) : (lenAt w).toNat = bitsAt w 16 8 := by
  rw [lenAt, BitVec.toNat_ofNat]
  exact Nat.mod_eq_of_lt (Nat.mod_lt _ (by decide))

theorem regAt_eq_iff {w : Word} {lo : Nat} {r : Reg} : regAt w lo = r ↔ bitsAt w lo 4 = r.val := by
  rw [← val_regAt, Fin.ext_iff]

theorem Width.bit_inj {x y : Width} (h : x.bit = y.bit) : x = y := by
  cases x <;> cases y <;> first | rfl | cases h

theorem widthAt_eq_iff {w : Word} {lo : Nat} {x : Width} : widthAt w lo = x ↔ bitsAt w lo 1 = x.bit := by
  rw [← bit_widthAt]
  exact ⟨congrArg _, Width.bit_inj⟩

theorem addrAt_eq_iff {w : Word} {a : BitVec 16} : addrAt w = a ↔ bitsAt w 0 16 = a.toNat := by
  rw [← toNat_addrAt, BitVec.toNat_inj]

theorem lenAt_eq_iff {w : Word} {l : BitVec 8} : lenAt w = l ↔ bitsAt w 16 8 = l.toNat := by
  rw [← toNat_lenAt, BitVec.toNat_inj]

/-- The values of a command's fields, each with its low bit, as its encoding packs them. -/
def packedFields : Instr → List (Nat × Nat)
  | .ld r w addr => [(r.val, 20), (w.bit, 16), (addr.toNat, 0)]
  | .st r addr => [(r.val, 20), (addr.toNat, 0)]
  | .bncmp ra rb w => [(ra.val, 16), (rb.val, 12), (w.bit, 0)]
  | .bnadd rd ra rb rn w | .bnsubm rd ra rb rn w | .bnmonmul rd ra rb rn w | .bnmonexp rd ra rb rn w =>
    [(rd.val, 20), (ra.val, 16), (rb.val, 12), (rn.val, 8), (w.bit, 0)]
  | .bnsub rd ra rb w => [(rd.val, 20), (ra.val, 16), (rb.val, 12), (w.bit, 0)]
  | .bnred rd ra rn w | .bntomon rd ra rn w | .bnfrommon rd ra rn w | .bnmoninv rd ra rn w =>
    [(rd.val, 20), (ra.val, 16), (rn.val, 8), (w.bit, 0)]
  | .mov rd ra | .ext rd ra | .ptomon rd ra | .pfrommon rd ra | .pdbl rd ra => [(rd.val, 20), (ra.val, 16)]
  | .padd rd ra rb | .pmul rd ra rb => [(rd.val, 20), (ra.val, 16), (rb.val, 12)]
  | .verify rh rq rr rs => [(rh.val, 20), (rq.val, 16), (rr.val, 12), (rs.val, 8)]
  | .keyld len addr => [(len.toNat, 16), (addr.toNat, 0)]
  | .subkey => []
  | .crvld addr | .crvst addr | .skst addr | .cmac16 addr | .cmac20 addr => [(addr.toNat, 0)]

theorem encode_eq_packWord (i : Instr) : encode i = packWord (opcode i) (packedFields i) := by cases i <;> rfl

/-- The value of the part of a command's word below its opcode. -/
def operandValue (i : Instr) : Nat := ((packedFields i).map fun f => f.1 * 2 ^ f.2).sum

theorem sumFields_nil : (([] : List (Nat × Nat)).map fun f => f.1 * 2 ^ f.2).sum = 0 := by rw [List.map_nil, List.sum_nil]

theorem sumFields_cons (v lo : Nat) (l : List (Nat × Nat)) :
    (((v, lo) :: l).map fun f => f.1 * 2 ^ f.2).sum = v * 2 ^ lo + (l.map fun f => f.1 * 2 ^ f.2).sum := by
  rw [List.map_cons, List.sum_cons]

theorem operandValue_lt (i : Instr) : operandValue i < 2 ^ 24 := by
  cases i
  case ld | bncmp | bnadd | bnsub | bnsubm | bnred | bntomon | bnfrommon | bnmonmul | bnmonexp | bnmoninv =>
    have hbit := Laws.EncodeOpcode.Width.bit_lt ‹Width›
    simp only [operandValue, packedFields, sumFields_cons, sumFields_nil]
    omega
  all_goals
    simp only [operandValue, packedFields, sumFields_cons, sumFields_nil]
    omega

theorem opcode_lt (i : Instr) : opcode i < 256 := by cases i <;> simp [opcode]

theorem toNat_encode (i : Instr) : (encode i).toNat = opcode i * 2 ^ 24 + operandValue i := by
  rw [encode_eq_packWord, toNat_packWord (opcode_lt i) (operandValue_lt i), operandValue]

theorem bitsAt_encode_opcode (i : Instr) : bitsAt (encode i) 24 8 = opcode i := by
  rw [encode_eq_packWord]
  exact Laws.EncodeOpcode.bitsAt_packWord _ _ (opcode_lt i) (operandValue_lt i)

theorem bitsAt_packWord_opcode (i : Instr) : bitsAt (packWord (opcode i) []) 24 8 = opcode i :=
  Laws.EncodeOpcode.bitsAt_packWord _ _ (opcode_lt i) (by decide)

/-- The fields of a command's word are its operands. -/
theorem readFields_encode (i : Instr) : readFields (encode i) i = i := by
  have hw := toNat_encode i
  cases i
  case subkey => rfl
  case ld | bncmp | bnadd | bnsub | bnsubm | bnred | bntomon | bnfrommon | bnmonmul | bnmonexp | bnmoninv =>
    have hbit := Laws.EncodeOpcode.Width.bit_lt ‹Width›
    simp only [operandValue, packedFields, sumFields_cons, sumFields_nil] at hw
    simp [readFields, regAt_eq_iff, widthAt_eq_iff, addrAt_eq_iff]
    simp only [bitsAt, hw]
    omega
  all_goals
    simp only [operandValue, packedFields, sumFields_cons, sumFields_nil] at hw
    simp [readFields, regAt_eq_iff, addrAt_eq_iff, lenAt_eq_iff]
    simp only [bitsAt, hw]
    omega

/-- The must-be-zero fields of a command's word are 0. -/
theorem bitsAt_zeroFields_encode (i : Instr) : ∀ z ∈ zeroFields i, bitsAt (encode i) z.1 z.2 = 0 := by
  have hw := toNat_encode i
  cases i
  case keyld => simp [zeroFields]
  case subkey => decide
  case ld | bncmp | bnadd | bnsub | bnsubm | bnred | bntomon | bnfrommon | bnmonmul | bnmonexp | bnmoninv =>
    have hbit := Laws.EncodeOpcode.Width.bit_lt ‹Width›
    simp only [operandValue, packedFields, sumFields_cons, sumFields_nil] at hw
    simp only [zeroFields, List.forall_mem_cons, List.not_mem_nil, IsEmpty.forall_iff, implies_true, and_true, bitsAt, hw]
    omega
  all_goals
    simp only [operandValue, packedFields, sumFields_cons, sumFields_nil] at hw
    simp only [zeroFields, List.forall_mem_cons, List.not_mem_nil, IsEmpty.forall_iff, implies_true, and_true, bitsAt, hw]
    omega

/-! ### The word of the command that was read -/

/-- A word with the opcode of a command and its must-be-zero fields clear is the word of the command read from it. -/
theorem encode_readFields {w : Word} {i : Instr} (hop : bitsAt w 24 8 = opcode i)
    (hzero : ∀ z ∈ zeroFields i, bitsAt w z.1 z.2 = 0) : encode (readFields w i) = w := by
  apply BitVec.eq_of_toNat_eq
  rw [toNat_encode]
  have hw := w.isLt
  cases i
  all_goals
    simp only [zeroFields, List.forall_mem_cons, List.not_mem_nil, IsEmpty.forall_iff, implies_true, and_true, bitsAt] at hzero
    simp only [opcode, bitsAt] at hop
    simp only [readFields, operandValue, packedFields, sumFields_cons, sumFields_nil, opcode, val_regAt, bit_widthAt,
      toNat_addrAt, toNat_lenAt, bitsAt]
    omega

theorem encode_of_decode {w : Word} {i : Instr} (h : decode w = .ok i) : encode i = w := by
  obtain ⟨hop, hzero, -⟩ := decode_eq_ok h
  obtain ⟨hread, -⟩ := readFields_of_decode h
  rw [← hread]
  exact encode_readFields hop hzero

/-! ### The words of a row of the opcode table -/

/-- Two masks joined: the word under each of them. -/
theorem and_of_and_or {w a f m : Word} (h : w &&& (a ||| f) = m) : w &&& a = m &&& a ∧ w &&& f = m &&& f := by
  subst h
  constructor
  all_goals
    apply BitVec.eq_of_getLsbD_eq
    intro j hj
    simp only [BitVec.getLsbD_and, BitVec.getLsbD_or]
    grind

/-- A field inside the word whose bits the mask leaves 0 is 0. -/
theorem bitsAt_eq_zero_of_and_fieldMask {w : Word} {z : Nat × Nat} (hz : z.1 + z.2 ≤ 32)
    (h : w &&& fieldMask z = 0#32) : bitsAt w z.1 z.2 = 0 := by
  apply Nat.eq_of_testBit_eq
  intro j
  rw [testBit_bitsAt, Nat.zero_testBit]
  by_cases hj : j < z.2
  · have hbit := congrArg (fun x : Word => x.getLsbD (z.1 + j)) h
    simp only [BitVec.getLsbD_and, getLsbD_fieldMask z (by omega : z.1 + j < 32), BitVec.getLsbD_zero] at hbit
    simpa [hj] using hbit
  · rw [decide_eq_false hj, Bool.false_and]

theorem bitsAt_eq_zero_of_and_fieldsMask {w : Word} {l : List (Nat × Nat)} (hl : ∀ z ∈ l, z.1 + z.2 ≤ 32)
    (h : w &&& fieldsMask l = 0#32) : ∀ z ∈ l, bitsAt w z.1 z.2 = 0 := by
  induction l with
  | nil => exact nofun
  | cons z l ih =>
    have h' : w &&& (fieldMask z ||| fieldsMask l) = 0#32 := h
    obtain ⟨hz, hrest⟩ := and_of_and_or h'
    rw [BitVec.zero_and] at hz hrest
    obtain ⟨hzle, hlle⟩ := List.forall_mem_cons.1 hl
    exact List.forall_mem_cons.2 ⟨bitsAt_eq_zero_of_and_fieldMask hzle hz, ih hlle hrest⟩

theorem clearFields_le (i : Instr) : ∀ z ∈ clearFields i, z.1 + z.2 ≤ 32 := by
  cases i <;> (simp only [clearFields, zeroFields, pointFields]; decide)

/-- The match word of a row has bits in the opcode only. -/
theorem packWord_opcode_and_mask (i : Instr) :
    packWord (opcode i) [] &&& 0xFF000000 = packWord (opcode i) [] ∧
      packWord (opcode i) [] &&& fieldsMask (clearFields i) = 0#32 := by
  cases i <;> (simp only [opcode, clearFields, zeroFields, pointFields]; decide +kernel)

/-- One command of each row, in the order of the table. -/
def rowCommands : List Instr :=
  [.ld 0 .w20 0, .st 0 0, .mov 0 0, .ext 0 0, .bncmp 0 0 .w20, .bnadd 0 0 0 0 .w20, .bnsub 0 0 0 .w20,
    .bnsubm 0 0 0 0 .w20, .bnred 0 0 0 .w20, .bntomon 0 0 0 .w20, .bnfrommon 0 0 0 .w20, .bnmonmul 0 0 0 0 .w20,
    .bnmonexp 0 0 0 0 .w20, .bnmoninv 0 0 0 .w20, .crvld 0, .crvst 0, .ptomon 0 0, .pfrommon 0 0, .pdbl 0 0,
    .padd 0 0 0, .pmul 0 0 0, .verify 0 0 0 0, .keyld 0 0, .subkey, .skst 0, .cmac16 0, .cmac20 0]

/-- Every row of the table is that of a command: its opcode, and a mask over the opcode and all that must be 0. -/
theorem opcodeTable_eq : opcodeTable =
    rowCommands.map fun i => (packWord (opcode i) [], 0xFF000000 ||| fieldsMask (clearFields i)) := by
  decide +kernel

/-- A word that matches the row of a command decodes. -/
theorem decode_of_row {w : Word} {i : Instr}
    (h : w &&& (0xFF000000 ||| fieldsMask (clearFields i)) = packWord (opcode i) []) :
    decode w = .ok (readFields w i) := by
  obtain ⟨hop, hclear⟩ := and_of_and_or h
  obtain ⟨hmatch, hfree⟩ := packWord_opcode_and_mask i
  rw [hmatch, and_opcodeMask] at hop
  have hopcode : bitsAt w 24 8 = opcode i := by
    have hlt : bitsAt w 24 8 < 256 := Nat.mod_lt _ (by decide)
    rw [← Laws.EncodeOpcode.bitsAt_packWord _ [] hlt (by decide), hop]
    exact bitsAt_packWord_opcode i
  have hzero := bitsAt_eq_zero_of_and_fieldsMask (clearFields_le i) (hclear.trans hfree)
  rw [decode_of_opcode hopcode]
  refine checkedAs_ok (wf_readFields fun lo hlo => ?_) fun z hz => hzero z (List.mem_append_left _ hz)
  exact (isEven_regAt_iff w lo).2 (hzero (lo, 1) (List.mem_append_right _ (List.mem_map.2 ⟨lo, hlo, rfl⟩)))

/-! ### The obligations -/

/-- Settles O1: the word of a command has its opcode, its must-be-zero fields clear, and its operands in its fields. -/
theorem decodeOfEncode : Obligations.DecodeOfEncode := by
  intro i hwf
  rw [decode_of_opcode (bitsAt_encode_opcode i), readFields_encode]
  exact checkedAs_ok hwf (bitsAt_zeroFields_encode i)

/-- Settles O2: the opcode, the fields and the must-be-zero bits make up the whole word. -/
theorem decodedWordIsEncoding : Obligations.DecodedWordIsEncoding := by
  refine ⟨fun w i h => ⟨(readFields_of_decode h).2, encode_of_decode h⟩, fun w w' i h h' => ?_⟩
  rw [← encode_of_decode h, encode_of_decode h']

/-- Settles O3: what decodes matches the row of its command, and what matches a row is read as a command of that row. -/
theorem decoderAcceptsTableRows : Obligations.DecoderAcceptsTableRows := by
  intro w
  constructor
  · rintro ⟨i, hi⟩
    obtain ⟨hop, -, -⟩ := decode_eq_ok hi
    exact ⟨_, row_mem_opcodeTable i, and_mask_of_decode hi (row_mem_opcodeTable i) (by rw [and_opcodeMask, hop])⟩
  · rintro ⟨row, hrow, hmatch⟩
    rw [opcodeTable_eq] at hrow
    obtain ⟨i, -, rfl⟩ := List.mem_map.1 hrow
    exact ⟨_, decode_of_row hmatch⟩

end Sys2Proof.Machine
end

section
/-!
PROOFS. The order of the checks (spec/60_exceptions.md R230), and the data movement commands (spec/40_data_movement.md).
-/

namespace Sys2Proof.Machine

/-! ### Running a sequence of checks -/

section
variable {s : State} {α : Type} {x : Except FaultCode α} {f : α → Except FaultCode State}

/-- A check that passes: the command goes on with what it gave. -/
theorem State.finish_bind_ok {a : α} (h : x = .ok a) : s.finish (x >>= f) = s.finish (f a) := by rw [h, bind_ok]

/-- A check that fails: the command faults with its code. -/
theorem State.finish_bind_error {c : FaultCode} (h : x = .error c) : s.finish (x >>= f) = .next (s.raise c) := by
  rw [h, bind_error, State.finish_error]

theorem State.finish_of_ok {y : Except FaultCode State} {t : State} (h : y = .ok t) : s.finish y = .next t.retire := by
  rw [h, State.finish_ok]

theorem State.finish_of_error {y : Except FaultCode State} {c : FaultCode} (h : y = .error c) :
    s.finish y = .next (s.raise c) := by
  rw [h, State.finish_error]

end

theorem requirePairs_odd {l : List Reg} (h : l.all Reg.isEven = false) : requirePairs l = .error .illegalCommand := by
  rw [requirePairs, h, require_false]

theorem requirePairs_even {l : List Reg} (h : l.all Reg.isEven = true) : requirePairs l = .ok () := by
  rw [requirePairs, h, require_true]

section
variable {s : State}

theorem State.operandCurve_ok (h : s.crv = true) : s.operandCurve = .ok s.curve := State.operandCurve_eq_ok.2 ⟨h, rfl⟩

theorem State.operandCurve_error (h : s.crv = false) : s.operandCurve = .error .curveNotLoaded := by
  simp [State.operandCurve, h]

theorem State.operandKey_ok (h : s.keyv = true) : s.operandKey = .ok s.key := State.operandKey_eq_ok.2 ⟨h, rfl⟩

theorem State.operandKey_error (h : s.keyv = false) : s.operandKey = .error .keyNotLoaded := by
  simp [State.operandKey, h]

theorem State.operandSubkeys_ok (h : s.skv = true) : s.operandSubkeys = .ok (s.k1, s.k2) :=
  State.operandSubkeys_eq_ok.2 ⟨h, rfl⟩

theorem State.operandSubkeys_error (h : s.skv = false) : s.operandSubkeys = .error .keyNotLoaded := by
  simp [State.operandSubkeys, h]

theorem State.memRead_ok {a n : Nat} (h : a + n ≤ s.dmemBytes) : s.memRead a n = .ok (s.dmem.readBytes a n) :=
  State.memRead_eq_ok.2 ⟨h, rfl⟩

theorem State.memRead_error {a n : Nat} (h : s.dmemBytes < a + n) : s.memRead a n = .error .addressRange :=
  State.memRead_eq_error.2 ⟨rfl, h⟩

theorem State.memWrite_ok {a : Nat} {l : List Byte} (h : a + l.length ≤ s.dmemBytes) :
    s.memWrite a l = .ok (s.storeBytes a l) := State.memWrite_eq_ok.2 ⟨h, rfl⟩

theorem State.memWrite_error {a : Nat} {l : List Byte} (h : s.dmemBytes < a + l.length) :
    s.memWrite a l = .error .addressRange := State.memWrite_eq_error.2 ⟨rfl, h⟩

theorem State.checkRange_ok {a n : Nat} (h : a + n ≤ s.dmemBytes) : s.checkRange a n = .ok () :=
  State.checkRange_eq_ok.2 h

theorem State.checkRange_error {a n : Nat} (h : s.dmemBytes < a + n) : s.checkRange a n = .error .addressRange :=
  State.checkRange_eq_error.2 ⟨rfl, h⟩

/-! ### The point fields and the contexts -/

/-- The first check of a command with point fields (log 13). -/
theorem exec_of_not_wf {i : Instr} (h : i.wf = false) : exec i s = .next (s.raise .illegalCommand) := by
  cases i with
  | ptomon | pfrommon | pdbl | pmul | verify =>
    exact State.finish_bind_error (requirePairs_odd (by simpa [Instr.wf] using h))
  | padd => exact State.finish_bind_error (requirePairs_odd (by simpa [Instr.wf, Bool.and_assoc] using h))
  | _ => cases h

theorem exec_of_no_curve {i : Instr} (hwf : i.wf = true) (hneeds : needsCurve i = true) (hcrv : s.crv = false) :
    exec i s = .next (s.raise .curveNotLoaded) := by
  have hcurve := State.operandCurve_error hcrv
  cases i with
  | crvst => exact State.finish_bind_error hcurve
  | ptomon | pfrommon | pdbl | pmul | verify =>
    exact (State.finish_bind_ok (requirePairs_even (by simpa [Instr.wf] using hwf))).trans
      (State.finish_bind_error hcurve)
  | padd =>
    exact (State.finish_bind_ok (requirePairs_even (by simpa [Instr.wf, and_assoc] using hwf))).trans
      (State.finish_bind_error hcurve)
  | _ => cases hneeds

theorem exec_of_no_key {i : Instr} (hneeds : needsKey i = true) (hkeyv : s.keyv = false) :
    exec i s = .next (s.raise .keyNotLoaded) := by
  have hkey := State.operandKey_error hkeyv
  cases i with
  | subkey | cmac16 | cmac20 => exact State.finish_bind_error hkey
  | _ => cases hneeds

/-! ### The tags of the source registers -/

/-- A run that faults with `c` when one of the listed registers has a wrong tag. -/
def FaultsOnTags (s : State) (c : FaultCode) (l : List (Reg × Option Width)) (x : Except FaultCode State) : Prop :=
  (∃ d ∈ l, ¬ tagMatches s d) → x = .error c

/-- A run that looks at no more registers. -/
theorem FaultsOnTags.nil (c : FaultCode) (x : Except FaultCode State) : FaultsOnTags s c [] x := by
  rintro ⟨d, hd, -⟩
  cases hd

/-- A read of one register, then the rest: a value is there only if the tag is right. -/
theorem FaultsOnTags.read {c : FaultCode} {d : Reg × Option Width} {l : List (Reg × Option Width)} {α : Type}
    {o : Option α} {f : α → Except FaultCode State} (ho : ∀ a, o = some a → tagMatches s d)
    (h : ∀ a, FaultsOnTags s c l (f a)) : FaultsOnTags s c (d :: l) (orFault c o >>= f) := by
  rintro ⟨d', hd', hbad⟩
  cases o with
  | none => rfl
  | some a =>
    rcases List.mem_cons.1 hd' with rfl | hl
    · exact absurd (ho a rfl) hbad
    · exact h a ⟨d', hl, hbad⟩

theorem FaultsOnTags.operand {c : FaultCode} {w : Width} {r : Reg} {l : List (Reg × Option Width)}
    {f : Big w.bytes → Except FaultCode State} (h : ∀ a, FaultsOnTags s c l (f a)) :
    FaultsOnTags s c ((r, some w) :: l) (s.operand c w r >>= f) := by
  refine .read (fun a ha => ?_) h
  simp [tagMatches, BigReg.read_eq_some.1 ha, BigReg.tag?]

theorem FaultsOnTags.operandPoint {c : FaultCode} {k : Reg} {l : List (Reg × Option Width)}
    {f : Point → Except FaultCode State} (h : ∀ P, FaultsOnTags s c l (f P)) :
    FaultsOnTags s c ((k, some .w20) :: (k + 1, some .w20) :: l) (s.operandPoint c k >>= f) := by
  simp only [State.operandPoint, bind_assoc, pure_bind]
  exact .operand fun x => .operand fun y => h ⟨x, y⟩

theorem FaultsOnTags.operandScalar {r : Reg} {l : List (Reg × Option Width)} {f : Scalar → Except FaultCode State}
    (h : ∀ k, FaultsOnTags s .invalidLength l (f k)) :
    FaultsOnTags s .invalidLength ((r, none) :: l) (s.operandScalar r >>= f) := by
  refine .read (fun k hk => ?_) h
  unfold tagMatches
  cases hr : s.b.get r with
  | empty => rw [hr] at hk; cases hk
  | val w x => exact nofun

theorem FaultsOnTags.operandBytes {r : Reg} {l : List (Reg × Option Width)} {f : List Byte → Except FaultCode State}
    (h : ∀ k, FaultsOnTags s .invalidLength l (f k)) :
    FaultsOnTags s .invalidLength ((r, none) :: l) (s.operandBytes r >>= f) := by
  refine .read (fun k hk => ?_) h
  unfold tagMatches
  cases hr : s.b.get r with
  | empty => rw [hr] at hk; cases hk
  | val w x => exact nofun

theorem FaultsOnTags.finish {c : FaultCode} {l : List (Reg × Option Width)} {x : Except FaultCode State}
    (h : FaultsOnTags s c l x) (hbad : ∃ d ∈ l, ¬ tagMatches s d) : s.finish x = .next (s.raise c) :=
  State.finish_of_error (h hbad)

/-- After the checks of R101 and R227 the point commands read their registers (R167). -/
theorem State.finish_pairs_curve {l : List Reg} {f : CurveContext → Except FaultCode State}
    (hl : l.all Reg.isEven = true) (hcrv : s.crv = true) :
    s.finish (do requirePairs l; let c ← s.operandCurve; f c) = s.finish (f s.curve) :=
  (State.finish_bind_ok (requirePairs_even hl)).trans (State.finish_bind_ok (State.operandCurve_ok hcrv))

theorem exec_of_wrong_tag {i : Instr} (hwf : i.wf = true) (hready : contextReady s i)
    (hbad : ∃ d ∈ sourceTags i, ¬ tagMatches s d) : exec i s = .next (s.raise (tagFault i)) := by
  obtain ⟨hcurve, -, -⟩ := hready
  cases i with
  | st => exact FaultsOnTags.finish (.operandBytes fun _ => .nil _ _) hbad
  | mov => exact FaultsOnTags.finish (.operandScalar fun _ => .nil _ _) hbad
  | ext => exact FaultsOnTags.finish (.operand fun _ => .nil _ _) hbad
  | bncmp | bnsub | bnred | bntomon | bnfrommon | bnmoninv =>
    exact FaultsOnTags.finish (.operand fun _ => .operand fun _ => .nil _ _) hbad
  | bnadd | bnsubm | bnmonmul =>
    exact FaultsOnTags.finish (.operand fun _ => .operand fun _ => .operand fun _ => .nil _ _) hbad
  | bnmonexp =>
    exact FaultsOnTags.finish (.operand fun _ => .operandScalar fun _ => .operand fun _ => .nil _ _) hbad
  | ptomon | pfrommon | pdbl =>
    exact (State.finish_pairs_curve (by simpa [Instr.wf] using hwf) (hcurve rfl)).trans
      (FaultsOnTags.finish (.operandPoint fun _ => .nil _ _) hbad)
  | padd =>
    exact (State.finish_pairs_curve (by simpa [Instr.wf, and_assoc] using hwf) (hcurve rfl)).trans
      (FaultsOnTags.finish (.operandPoint fun _ => .operandPoint fun _ => .nil _ _) hbad)
  | pmul =>
    exact (State.finish_pairs_curve (by simpa [Instr.wf] using hwf) (hcurve rfl)).trans
      (FaultsOnTags.finish (.operandPoint fun _ => .operandScalar fun _ => .nil _ _) hbad)
  | verify =>
    exact (State.finish_pairs_curve (by simpa [Instr.wf] using hwf) (hcurve rfl)).trans
      (FaultsOnTags.finish (.operand fun _ => .operandPoint fun _ => .operand fun _ => .operand fun _ => .nil _ _) hbad)
  | _ => exact FaultsOnTags.finish (.nil _ _) hbad

/-! ### The ranges -/

/-- A register with any tag is stored at its own length (R121). -/
theorem State.operandBytes_of_tagMatches {r : Reg} (h : tagMatches s (r, none)) :
    ∃ w, (s.b.get r).tag? = some w ∧ ∃ l, s.operandBytes r = .ok l ∧ l.length = w.bytes := by
  unfold tagMatches at h
  cases hr : s.b.get r with
  | empty => rw [hr] at h; exact absurd rfl h
  | val w x =>
    exact ⟨w, rfl, toBytes x, State.operandBytes_eq_ok.2 ⟨w, x, hr, rfl⟩, length_toBytes x⟩

theorem exec_of_bad_range {i : Instr} (hready : contextReady s i) (htags : ∀ d ∈ sourceTags i, tagMatches s d)
    (hlen : ∀ len addr, i = .keyld len addr → len = 16) (hbad : ∃ r ∈ neededRanges s i, s.dmemBytes < r.1 + r.2) :
    exec i s = .next (s.raise .addressRange) := by
  obtain ⟨hcurve, hkey, hskst⟩ := hready
  obtain ⟨r, hr, hrange⟩ := hbad
  cases i with
  | ld | crvld =>
    obtain rfl := List.mem_singleton.1 hr
    exact State.finish_bind_error (State.memRead_error hrange)
  | st r addr =>
    obtain rfl := List.mem_singleton.1 hr
    obtain ⟨w, hw, l, hl, hllen⟩ := State.operandBytes_of_tagMatches (htags (r, none) (List.mem_singleton.2 rfl))
    exact (State.finish_bind_ok hl).trans
      (State.finish_of_error (State.memWrite_error (by simpa [destRange, hw, hllen] using hrange)))
  | crvst =>
    obtain rfl := List.mem_singleton.1 hr
    exact (State.finish_bind_ok (State.operandCurve_ok (hcurve rfl))).trans
      (State.finish_of_error (State.memWrite_error (by simpa using hrange)))
  | keyld len addr =>
    obtain rfl := List.mem_singleton.1 hr
    obtain rfl := hlen len addr rfl
    exact (State.finish_bind_ok rfl).trans (State.finish_bind_error (State.memRead_error hrange))
  | skst addr =>
    obtain rfl := List.mem_singleton.1 hr
    exact (State.finish_bind_ok (State.operandSubkeys_ok (hskst ⟨addr, rfl⟩))).trans
      (State.finish_of_error (State.memWrite_error (by simpa using hrange)))
  | cmac16 | cmac20 =>
    refine (State.finish_bind_ok (State.operandKey_ok (hkey rfl))).trans ?_
    by_cases hmsg : s.msgaddr.toNat + s.msglen.toNat ≤ s.dmemBytes
    · refine (State.finish_bind_ok (State.memRead_ok hmsg)).trans (State.finish_bind_error (State.checkRange_error ?_))
      rcases List.mem_cons.1 hr with rfl | hr
      · exact absurd hmsg (Nat.not_le.2 hrange)
      · obtain rfl := List.mem_singleton.1 hr
        exact hrange
    · exact State.finish_bind_error (State.memRead_error (Nat.lt_of_not_le hmsg))
  | _ => cases hr

end

/-! ### What data movement leaves alone, and the bytes it moves -/

section
variable (s : State)

/-- The frame of a command that wrote one register. -/
theorem State.onlyRegs_setReg (r : Reg) (x : BigReg) : s.OnlyRegs (s.setReg r x).retire [r] where
  rest := rfl
  regs q hq := (s.setReg_get r q x).trans (if_neg (List.mem_singleton.not.1 hq))
  mem _ := rfl

/-- The frame of a command that wrote one pair. -/
theorem State.onlyRegs_setPair (k : Reg) (P : Point) : s.OnlyRegs (s.setPair k P).retire [k, k + 1] where
  rest := rfl
  regs q hq := by
    rw [List.mem_pair, not_or] at hq
    exact (s.setPair_get k q P).trans (by rw [if_neg hq.2, if_neg hq.1])
  mem _ := rfl

/-- The register a command wrote. -/
theorem State.retire_setReg_get (r : Reg) (x : BigReg) : (s.setReg r x).retire.b.get r = x :=
  (s.setReg_get r r x).trans (if_pos rfl)

/-- The pair a command wrote. -/
theorem State.holdsPoint_setPair (k : Reg) (P : Point) : (s.setPair k P).retire.holdsPoint k P :=
  ⟨(s.setPair_get k k P).trans (by rw [if_neg (Reg.succ_ne k).symm, if_pos rfl]),
    (s.setPair_get k (k + 1) P).trans (if_pos rfl)⟩

/-- The frame of a command that stored a byte string. -/
theorem State.onlyMem_storeBytes (hm : s.dmem.wf) (a : Nat) (l : List Byte) :
    s.OnlyMem (s.storeBytes a l).retire a l.length where
  rest := rfl
  mem _ ha := Memory.read_writeBytes_outside hm ha

/-- The integer of the bytes in `DMEM` is spelled there (R65). -/
theorem State.spells_ofBytes (a n : Nat) : s.spells a (ofBytes n (s.dmem.readBytes a n)) := fun i hi => by
  rw [byteAt_ofBytes n _ (Memory.length_readBytes _ _ _) i (by simpa using hi), Memory.getElem_readBytes]

end

/-- Expanding keeps the number (R123). -/
theorem toNat_expand (x : Big 20) : (expand x).toNat = x.toNat := by
  have hx := x.isLt
  rw [expand, BitVec.toNat_setWidth, Nat.mod_eq_of_lt (Nat.lt_trans hx (by decide))]

theorem byteAt_expand_zero (x : Big 20) : byteAt (expand x) 0 = 0 := by
  apply BitVec.eq_of_toNat_eq
  have hx := x.isLt
  rw [toNat_byteAt, toNat_expand, Nat.div_eq_of_lt (by simpa using hx)]
  rfl

/-! ### The obligations -/

/-- Settles O27: the checks stand first in each command, in the order point fields, key length, context. -/
theorem contextChecksComeFirst : Obligations.ContextChecksComeFirst := by
  refine fun i s => ⟨exec_of_not_wf, ?_, exec_of_no_curve, exec_of_no_key, ?_⟩
  · rintro len addr rfl hlen
    exact State.finish_bind_error (by rw [decide_eq_false hlen, require_false])
  · rintro addr rfl hskv
    exact State.finish_bind_error (State.operandSubkeys_error hskv)

/-- Settles O28: after the context checks a command reads its registers one by one, each with the same fault. -/
theorem wrongTagsFault : Obligations.WrongTagsFault := fun _ _ => exec_of_wrong_tag

/-- Settles O29: the range checks come when the registers have been read; the message length after them. -/
theorem rangesThatDoNotFitFault : Obligations.RangesThatDoNotFitFault := by
  refine ⟨fun i s _ => exec_of_bad_range, fun s addr hkey hmsg haddr hshort => ?_⟩
  refine (State.finish_bind_ok (State.operandKey_ok hkey)).trans <|
    (State.finish_bind_ok (State.memRead_ok hmsg)).trans <|
    (State.finish_bind_ok (State.checkRange_ok haddr)).trans (State.finish_bind_error ?_)
  rw [decide_eq_false (Nat.not_lt.2 hshort), require_false]

/-- Settles O30: the register takes the integer of the bytes read. -/
theorem ldLoadsInteger : Obligations.LdLoadsInteger := by
  intro s r w addr hfit
  exact ⟨_, _, State.finish_bind_ok (State.memRead_ok hfit), s.retire_setReg_get r _, s.spells_ofBytes _ _,
    s.onlyRegs_setReg r _⟩

/-- Settles O31: the bytes of the register are stored, and no others. -/
theorem stStoresAtOwnLength : Obligations.StStoresAtOwnLength := by
  intro s r w x addr hm hr hfit
  have hstore := State.memWrite_ok (l := toBytes x) (by simpa using hfit)
  refine ⟨(s.storeBytes addr.toNat (toBytes x)).retire, ?_, ?_, ?_⟩
  · exact (State.finish_bind_ok (State.operandBytes_eq_ok.2 ⟨w, x, hr, rfl⟩)).trans (State.finish_of_ok hstore)
  · exact fun i hi => Memory.read_writeBytes_toBytes hm _ x hi
  · simpa using s.onlyMem_storeBytes hm addr.toNat (toBytes x)

/-- Settles O32: the register takes value and tag of the source; written onto itself it stays. -/
theorem movCopiesValueAndTag : Obligations.MovCopiesValueAndTag := by
  intro s rd ra w x hra
  refine ⟨(s.setReg rd (.val w x)).retire, State.finish_bind_ok (State.operandScalar_eq_ok (k := ⟨w, x⟩).2 hra),
    s.retire_setReg_get rd _, s.onlyRegs_setReg rd _, ?_⟩
  rintro rfl
  rw [State.retire_b, State.setReg_b, ← hra]
  exact Vector.set_getElem_self ..

/-- Settles O33: the expanded integer is the same number, with one more byte in front. -/
theorem extPrependsZeroByte : Obligations.ExtPrependsZeroByte := by
  intro s rd ra x hra
  refine ⟨_, expand x, State.finish_bind_ok (State.operand20_eq_ok.2 hra), s.retire_setReg_get rd _, toNat_expand x,
    byteAt_expand_zero x, fun i hi => ?_, s.onlyRegs_setReg rd _⟩
  apply BitVec.eq_of_toNat_eq
  rw [toNat_byteAt, toNat_byteAt, toNat_expand, show 21 - 1 - (i + 1) = 20 - 1 - i by omega]

/-- Settles O4: each word is decoded. -/
theorem specWordsDecode : Obligations.SpecWordsDecode := by
  unfold Obligations.SpecWordsDecode
  decide +kernel

end Sys2Proof.Machine
end

section
/-!
PROOFS. The arithmetic of the big-integer engine as plain numbers (spec/41_bigint.md): each function of the engine has the value
its pseudocode has on numbers (R144), and what that value is modulo `N` under the preconditions of its rule.
-/

namespace Sys2Proof.Machine

/-! ### Loops -/

/-- An invariant of a loop over `0 .. count - 1`: it holds at the start and every pass keeps it. -/
theorem foldl_range_induction {g : Nat → Nat → Nat} {d : Nat} (I : Nat → Nat → Prop) (count : Nat) (h0 : I 0 d)
    (hs : ∀ i d, i < count → I i d → I (i + 1) (g d i)) : I count ((List.range count).foldl g d) := by
  induction count with
  | zero => exact h0
  | succ c ih =>
    rw [List.range_succ, List.foldl_append, List.foldl_cons, List.foldl_nil]
    exact hs c _ (Nat.lt_succ_self c) (ih fun i d hi => hs i d (Nat.lt_succ_of_lt hi))

/-- A loop of the engine computes the loop on numbers that its body computes. -/
theorem toNat_iterate {k : Nat} {body : Nat → BitVec k → BitVec k} {g : Nat → Nat → Nat} (count : Nat)
    (h : ∀ i d, i < count → (body i d).toNat = g d.toNat i) (d : BitVec k) :
    (iterate body count 0 d).toNat = (List.range count).foldl g d.toNat := by
  induction count with
  | zero => rfl
  | succ c ih =>
    rw [iterate_succ_last, Nat.zero_add, h c _ (Nat.lt_succ_self c), ih fun i d hi => h i d (Nat.lt_succ_of_lt hi),
      List.range_succ, List.foldl_append, List.foldl_cons, List.foldl_nil]

/-! ### The engine computes the pseudocode -/

section
variable {n : Nat}

theorem toNat_bnRed_eq (d N : Big n) : (bnRed d N).toNat = redValue N.toNat d.toNat := toNat_bnRed d N

theorem toNat_bnAdd_eq (a b N : Big n) : (bnAdd a b N).toNat = addValue (2 ^ (8 * n)) N.toNat a.toNat b.toNat :=
  toNat_bnAdd a b N

theorem toNat_bnSubm_eq (a b N : Big n) : (bnSubm a b N).toNat = subValue (2 ^ (8 * n)) N.toNat a.toNat b.toNat := by
  have hb := b.isLt
  rw [toNat_bnSubm, subValue, show a.toNat + 2 ^ (8 * n) - b.toNat + N.toNat = a.toNat + N.toNat + 2 ^ (8 * n) - b.toNat by
    omega]

theorem toNat_bnToMon (a N : Big n) : (bnToMon a N).toNat = toMonValue n N.toNat a.toNat :=
  toNat_iterate (8 * n) (fun _ d _ => toNat_bnAdd_eq d d N) a

/-- The last byte of an integer is its remainder modulo 256. -/
theorem toNat_byteAt_last (a : Big n) : (byteAt a (n - 1)).toNat = a.toNat % 256 := by
  rw [toNat_byteAt, Nat.sub_self, Nat.pow_zero, Nat.div_one]

/-- The difference wrapped to `n` bytes (R132). -/
theorem toNat_subRaw_eq (a b : Big n) : (subRaw a b).1.toNat = (a.toNat + 2 ^ (8 * n) - b.toNat) % 2 ^ (8 * n) := by
  have ha := a.isLt
  rw [toNat_subRaw]
  split
  · next h =>
    rw [show a.toNat + 2 ^ (8 * n) - b.toNat = a.toNat - b.toNat + 2 ^ (8 * n) by omega, Nat.add_mod_right,
      Nat.mod_eq_of_lt (by omega)]
  · next h => exact (Nat.mod_eq_of_lt (by omega)).symm

/-- Wrapping before the subtraction changes nothing when the number is large enough. -/
theorem mod_add_sub_mod {M u N : Nat} (hu : M ≤ u) (hN : N < M) : (u % M + M - N) % M = (u - N) % M := by
  have hq : 0 < u / M := Nat.div_pos hu (by omega)
  obtain ⟨q, hq⟩ : ∃ q, u / M = q + 1 := ⟨u / M - 1, by omega⟩
  have hdiv : M * (q + 1) + u % M = u := hq ▸ Nat.div_add_mod u M
  rw [Nat.mul_succ] at hdiv
  rw [show u - N = u % M + M - N + M * q by omega, Nat.add_mul_mod_self_left]

theorem toNat_monDigit (d a N : Big n) (bj : Byte) :
    (monDigit d a bj N).toNat = digitValue (2 ^ (8 * n)) N.toNat a.toNat d.toNat bj.toNat := by
  have hN := N.isLt
  unfold monDigit digitValue
  simp only [toNat_bnRed_eq, toNat_byteAt_last]
  generalize (d.toNat + a.toNat * bj.toNat + N.toNat * _) / 256 = u
  by_cases hu : 2 ^ (8 * n) ≤ u
  · have hdig : u / 2 ^ (8 * n) ≠ 0 := Nat.ne_of_gt (Nat.div_pos hu (by omega))
    rw [if_pos hdig, if_pos hu, toNat_subRaw_eq, BitVec.toNat_ofNat, mod_add_sub_mod hu hN]
  · have hdig : u / 2 ^ (8 * n) = 0 := Nat.div_eq_of_lt (by omega)
    rw [if_neg (not_not.2 hdig), if_neg hu, BitVec.toNat_ofNat, Nat.mod_eq_of_lt (by omega)]

theorem toNat_monMul (a b N : Big n) : (monMul a b N).toNat = mulValue n N.toNat a.toNat b.toNat := by
  have hpass : ∀ i (d : Big n), i < n → (monDigit d a (byteAt b (n - 1 - i)) N).toNat =
      digitValue (2 ^ (8 * n)) N.toNat a.toNat d.toNat (b.toNat / 256 ^ i % 256) := fun i d hi => by
    rw [toNat_monDigit, toNat_byteAt, show n - 1 - (n - 1 - i) = i by omega]
  rw [monMul, toNat_iterate (g := fun d i => digitValue _ _ _ d (b.toNat / 256 ^ i % 256)) n hpass, mulValue]
  simp

theorem toNat_monExpStep (a N d : Big n) (bit : Bool) : (monExpStep a N bit d).toNat =
    if bit then mulValue n N.toNat (mulValue n N.toNat d.toNat d.toNat) a.toNat
    else mulValue n N.toNat d.toNat d.toNat := by
  rw [monExpStep, strictly_eq]
  split <;> simp only [toNat_monMul]

/-- The constant 1 as an integer of at least one byte. -/
theorem toNat_one (hn : 0 < n) : (1 : Big n).toNat = 1 := Nat.mod_eq_of_lt (Nat.one_lt_two_pow (by omega))

theorem toNat_two (hn : 0 < n) : (2 : Big n).toNat = 2 :=
  Nat.mod_eq_of_lt (lt_of_lt_of_le (by decide : 2 < 2 ^ 8) (Nat.pow_le_pow_right (by decide) (by omega)))

theorem toNat_bnFromMon (hn : 0 < n) (a N : Big n) : (bnFromMon a N).toNat = mulValue n N.toNat a.toNat 1 := by
  rw [bnFromMon, toNat_monMul, toNat_one hn]

theorem toNat_monExp {m : Nat} (hn : 0 < n) (a N : Big n) (e : Big m) :
    (monExp a e N).toNat = expValue n N.toNat a.toNat e.toNat (8 * m) := by
  refine (toNat_iterate (8 * m) (fun t d ht => ?_) _).trans (by rw [toNat_bnToMon, toNat_one hn]; rfl)
  rw [toNat_monExpStep, BitVec.getMsbD_eq_getLsbD, decide_eq_true ht, Bool.true_and, BitVec.getLsbD]

theorem toNat_monInv (hn : 0 < n) (a N : Big n) : (monInv a N).toNat =
    expValue n N.toNat a.toNat ((N.toNat + 2 ^ (8 * n) - 2) % 2 ^ (8 * n)) (8 * n) := by
  rw [monInv, toNat_monExp hn, toNat_subRaw_eq, toNat_two hn]

end

/-! ### Sums, differences and doublings below the modulus -/

section
variable {M N a b : Nat}

theorem redValue_eq_mod (h : a < 2 * N) : redValue N a = a % N := by
  unfold redValue
  split
  · next hle => rw [Nat.mod_eq_sub_mod hle, Nat.mod_eq_of_lt (by omega)]
  · next hlt => exact (Nat.mod_eq_of_lt (by omega)).symm

/-- A wrapped subtraction and then a conditional one reduce what is below `2N` (R131, R138). -/
theorem redValue_wrapped (hN : N ≤ M) (h : a < 2 * N) : redValue N (if M ≤ a then (a - N) % M else a) = a % N := by
  split
  · next hle =>
    rw [Nat.mod_eq_of_lt (by omega : a - N < M), Nat.mod_eq_sub_mod (by omega), redValue_eq_mod (by omega)]
  · exact redValue_eq_mod h

theorem addValue_eq_mod (hN : N ≤ M) (ha : a < N) (hb : b < N) : addValue M N a b = (a + b) % N :=
  redValue_wrapped hN (by omega)

theorem subValue_eq_mod (hN : N ≤ M) (ha : a < N) (hb : b < N) : subValue M N a b = (a + N - b) % N := by
  unfold subValue
  split
  · rw [show a + N - b = a - b + N by omega, Nat.add_mod_right, Nat.mod_eq_of_lt (by omega)]
  · rw [show a + N + M - b = a + N - b + M by omega, Nat.add_mod_right, Nat.mod_eq_of_lt (by omega),
      Nat.mod_eq_of_lt (by omega)]

/-- The doublings multiply by the radix (R136). -/
theorem toMonValue_eq_mod {n : Nat} (hN : N ≤ 2 ^ (8 * n)) (ha : a < N) :
    toMonValue n N a = a * 2 ^ (8 * n) % N := by
  refine foldl_range_induction (fun i d => d = a * 2 ^ i % N) (8 * n) ?_ fun i d _ hd => ?_
  · rw [Nat.pow_zero, Nat.mul_one, Nat.mod_eq_of_lt ha]
  · have hdN : d < N := hd ▸ Nat.mod_lt _ (by omega)
    rw [addValue_eq_mod hN hdN hdN, hd, ← Nat.add_mod, Nat.pow_succ, ← Nat.mul_assoc, Nat.mul_two]

/-! ### The digit step -/

/-- The multiplier of the digit step (R138). -/
def digitFactor (N a d bj : Nat) : Nat := (d % 256 + a % 256 * bj) % 256 * (invEntry (N % 256 / 2)).toNat % 256

/-- The inverse table inverts the last byte of an odd modulus, up to the sign (R33). -/
theorem cast_mul_invEntry (hodd : N % 2 = 1) : (N : ZMod 256) * ((invEntry (N % 256 / 2)).toNat : ZMod 256) = -1 := by
  have hspec := invEntry_spec (N % 256 / 2) (by omega)
  rw [show 2 * (N % 256 / 2) + 1 = N % 256 by omega] at hspec
  have hzero := (ZMod.natCast_eq_zero_iff _ 256).2 (Nat.dvd_of_mod_eq_zero hspec)
  push_cast at hzero
  rw [ZMod.natCast_mod] at hzero
  linear_combination hzero

theorem cast_digitFactor (N a d bj : Nat) : (digitFactor N a d bj : ZMod 256) =
    (d + a * bj) * ((invEntry (N % 256 / 2)).toNat : ZMod 256) := by
  simp [digitFactor]

/-- The digit factor is the one byte that makes the sum divisible by 256. -/
theorem digit_sum_mod_iff (hodd : N % 2 = 1) (d bj y : Nat) :
    (d + a * bj + N * y) % 256 = 0 ↔ (y : ZMod 256) = digitFactor N a d bj := by
  have hinv := cast_mul_invEntry hodd
  rw [← Nat.dvd_iff_mod_eq_zero, ← ZMod.natCast_eq_zero_iff, cast_digitFactor]
  push_cast
  constructor
  · intro h
    linear_combination (y : ZMod 256) * hinv - ((invEntry (N % 256 / 2)).toNat : ZMod 256) * h
  · intro h
    rw [h]
    linear_combination ((d : ZMod 256) + a * bj) * hinv

/-- The digit step is the exact quotient, reduced once (R138). -/
theorem digitValue_eq_mod {d bj : Nat} (hN : N ≤ M) (hd : d < N) (ha : a < N) (hbj : bj < 256) :
    digitValue M N a d bj = (d + a * bj + N * digitFactor N a d bj) / 256 % N := by
  have hz : digitFactor N a d bj < 256 := Nat.mod_lt _ (by decide)
  have hsum : d + a * bj + N * digitFactor N a d bj < 2 * N * 256 := by nlinarith
  have hquot : (d + a * bj + N * digitFactor N a d bj) / 256 < 2 * N := Nat.div_lt_of_lt_mul (by omega)
  exact redValue_wrapped hN hquot

theorem digitValue_modEq {d bj : Nat} (hN : N ≤ M) (hodd : N % 2 = 1) (hd : d < N) (ha : a < N) (hbj : bj < 256) :
    digitValue M N a d bj * 256 ≡ d + a * bj + N * digitFactor N a d bj [MOD N] := by
  have hexact := (digit_sum_mod_iff (a := a) hodd d bj (digitFactor N a d bj)).2 rfl
  rw [digitValue_eq_mod hN hd ha hbj]
  calc (d + a * bj + N * digitFactor N a d bj) / 256 % N * 256
      ≡ (d + a * bj + N * digitFactor N a d bj) / 256 * 256 [MOD N] := (Nat.mod_modEq _ _).mul_right _
    _ = d + a * bj + N * digitFactor N a d bj := Nat.div_mul_cancel (Nat.dvd_of_mod_eq_zero hexact)

theorem digitValue_lt {d bj : Nat} (hN : N ≤ M) (hd : d < N) (ha : a < N) (hbj : bj < 256) :
    digitValue M N a d bj < N := by
  rw [digitValue_eq_mod hN hd ha hbj]
  exact Nat.mod_lt _ (by omega)

/-- A digit step with nothing to add. -/
theorem digitValue_zero (M N a bj : Nat) (h : a = 0 ∨ bj = 0) : digitValue M N a 0 bj = 0 := by
  have hprod : a * bj = 0 := by rcases h with rfl | rfl <;> simp
  have hlast : a % 256 * bj = 0 := by rcases h with rfl | rfl <;> simp
  simp only [digitValue, hprod, hlast, redValue]
  simp

end

/-! ### The Montgomery product -/

section
variable {n N a b : Nat}

/-- The Montgomery product is a residue (R139). -/
theorem mulValue_lt (hN : N ≤ 2 ^ (8 * n)) (ha : a < N) (b : Nat) : mulValue n N a b < N := by
  refine foldl_range_induction (fun _ d => d < N) n (by omega) fun i d _ hd => ?_
  exact digitValue_lt hN hd ha (Nat.mod_lt _ (by decide))

/-- The Montgomery product divides by the radix (R139). -/
theorem mulValue_modEq (hN : N ≤ 2 ^ (8 * n)) (hodd : N % 2 = 1) (ha : a < N) (hb : b < 2 ^ (8 * n)) :
    mulValue n N a b * 2 ^ (8 * n) ≡ a * b [MOD N] := by
  have hinv : mulValue n N a b < N ∧ mulValue n N a b * 256 ^ n ≡ a * (b % 256 ^ n) [MOD N] := by
    refine foldl_range_induction (fun i d => d < N ∧ d * 256 ^ i ≡ a * (b % 256 ^ i) [MOD N]) n ?_ ?_
    · exact ⟨by omega, by simp [Nat.mod_one, Nat.ModEq.refl]⟩
    · intro i d _ ⟨hd, hmod⟩
      have hbj : b / 256 ^ i % 256 < 256 := Nat.mod_lt _ (by decide)
      refine ⟨digitValue_lt hN hd ha hbj, ?_⟩
      have hstep := digitValue_modEq hN hodd hd ha hbj
      generalize digitValue (2 ^ (8 * n)) N a d (b / 256 ^ i % 256) = d' at hstep ⊢
      generalize digitFactor N a d (b / 256 ^ i % 256) = z at hstep
      calc d' * 256 ^ (i + 1) = d' * 256 * 256 ^ i := by ring
        _ ≡ (d + a * (b / 256 ^ i % 256) + N * z) * 256 ^ i [MOD N] := hstep.mul_right _
        _ = d * 256 ^ i + a * (b / 256 ^ i % 256) * 256 ^ i + N * (z * 256 ^ i) := by ring
        _ ≡ d * 256 ^ i + a * (b / 256 ^ i % 256) * 256 ^ i [MOD N] := by
          simp [Nat.ModEq]
        _ ≡ a * (b % 256 ^ i) + a * (b / 256 ^ i % 256) * 256 ^ i [MOD N] := hmod.add_right _
        _ = a * (b % 256 ^ (i + 1)) := by rw [Nat.mod_pow_succ]; ring
  rw [Nat.pow_mul] at hb ⊢
  rw [show 2 ^ 8 = 256 from rfl] at hb ⊢
  simpa [Nat.mod_eq_of_lt hb] using hinv.2

/-- A product with zero is zero, whatever the modulus (R139). -/
theorem mulValue_zero (n N : Nat) (h : a = 0 ∨ b = 0) : mulValue n N a b = 0 := by
  refine foldl_range_induction (fun _ d => d = 0) n rfl fun i d _ hd => ?_
  subst hd
  exact digitValue_zero _ _ _ _ (h.imp_right fun hb => by simp [hb])

/-- The radix has no common factor with an odd modulus. -/
theorem coprime_radix (hodd : N % 2 = 1) (k : Nat) : Nat.Coprime N (2 ^ k) :=
  Nat.Coprime.pow_right k (Nat.coprime_two_right.2 (Nat.odd_iff.2 hodd))

/-- The Montgomery product of the Montgomery forms of `x` and `y` is that of `x y` (R139). -/
theorem mulValue_of_montgomery (hN : N ≤ 2 ^ (8 * n)) (hodd : N % 2 = 1) (ha : a < N) (hb : b < N) {x y : Nat}
    (hx : a ≡ x * 2 ^ (8 * n) [MOD N]) (hy : b ≡ y * 2 ^ (8 * n) [MOD N]) :
    mulValue n N a b ≡ x * y * 2 ^ (8 * n) [MOD N] := by
  refine Nat.ModEq.cancel_right_of_coprime (c := 2 ^ (8 * n)) (coprime_radix hodd _) ?_
  calc mulValue n N a b * 2 ^ (8 * n) ≡ a * b [MOD N] := mulValue_modEq hN hodd ha (by omega)
    _ ≡ x * 2 ^ (8 * n) * (y * 2 ^ (8 * n)) [MOD N] := hx.mul hy
    _ = x * y * 2 ^ (8 * n) * 2 ^ (8 * n) := by ring

/-! ### Powers -/

/-- The top `t + 1` bits of an exponent are the top `t` bits, doubled, and the next bit. -/
theorem exponent_step (e k : Nat) : e / 2 ^ k = 2 * (e / 2 ^ (k + 1)) + (e.testBit k).toNat := by
  rw [Nat.testBit_eq_decide_div_mod_eq, Nat.pow_succ, ← Nat.div_div_eq_div_mul]
  rcases Nat.mod_two_eq_zero_or_one (e / 2 ^ k) with h | h <;> rw [h] <;> simp <;> omega

/-- Square-and-multiply computes the Montgomery form of the power (R140). -/
theorem expValue_spec (hN : N ≤ 2 ^ (8 * n)) (hodd : N % 2 = 1) (h1 : 1 < N) (ha : a < N) {x e bits : Nat}
    (hx : a ≡ x * 2 ^ (8 * n) [MOD N]) (he : e < 2 ^ bits) :
    expValue n N a e bits < N ∧ expValue n N a e bits ≡ x ^ e * 2 ^ (8 * n) [MOD N] := by
  have hinv : expValue n N a e bits < N ∧
      expValue n N a e bits ≡ x ^ (e / 2 ^ (bits - bits)) * 2 ^ (8 * n) [MOD N] := by
    refine foldl_range_induction
      (fun t d => d < N ∧ d ≡ x ^ (e / 2 ^ (bits - t)) * 2 ^ (8 * n) [MOD N]) bits ?_ fun t d ht hd => ?_
    · rw [toMonValue_eq_mod hN h1, Nat.sub_zero, Nat.div_eq_of_lt he, Nat.pow_zero]
      exact ⟨Nat.mod_lt _ (by omega), Nat.mod_modEq _ _⟩
    · obtain ⟨hdN, hmod⟩ := hd
      have hq := mulValue_of_montgomery hN hodd hdN hdN hmod hmod
      have hqN := mulValue_lt hN hdN d
      have hexp := exponent_step e (bits - (t + 1))
      rw [show bits - (t + 1) + 1 = bits - t by omega] at hexp
      rw [show bits - 1 - t = bits - (t + 1) by omega]
      dsimp only
      split
      · next hbit =>
        refine ⟨mulValue_lt hN hqN a, ?_⟩
        rw [hexp, hbit, show x ^ (2 * (e / 2 ^ (bits - t)) + true.toNat) =
          x ^ (e / 2 ^ (bits - t)) * x ^ (e / 2 ^ (bits - t)) * x by rw [Bool.toNat_true]; ring]
        exact mulValue_of_montgomery hN hodd hqN ha hq hx
      · next hbit =>
        refine ⟨hqN, ?_⟩
        rw [hexp, Bool.eq_false_iff.2 hbit, show x ^ (2 * (e / 2 ^ (bits - t)) + false.toNat) =
          x ^ (e / 2 ^ (bits - t)) * x ^ (e / 2 ^ (bits - t)) by rw [Bool.toNat_false]; ring]
        exact hq
  rwa [Nat.sub_self, Nat.pow_zero, Nat.div_one] at hinv

/-- A positive power of zero is zero, whatever the modulus (R140). -/
theorem expValue_zero (n N : Nat) {e bits : Nat} (he : e < 2 ^ bits) (hpos : 0 < e) : expValue n N 0 e bits = 0 := by
  have hinv : e / 2 ^ (bits - bits) ≠ 0 → expValue n N 0 e bits = 0 := by
    refine foldl_range_induction (fun t d => e / 2 ^ (bits - t) ≠ 0 → d = 0) bits ?_ fun t d ht hd => ?_
    · rw [Nat.sub_zero, Nat.div_eq_of_lt he]
      exact fun h => absurd rfl h
    · intro hne
      have hexp := exponent_step e (bits - (t + 1))
      rw [show bits - (t + 1) + 1 = bits - t by omega] at hexp
      rw [show bits - 1 - t = bits - (t + 1) by omega]
      dsimp only
      split
      · exact mulValue_zero n N (.inr rfl)
      · next hbit =>
        rw [Bool.eq_false_iff.2 hbit, Bool.toNat_false] at hexp
        exact mulValue_zero n N (.inl (hd (by omega)))
  exact hinv (by rw [Nat.sub_self, Nat.pow_zero, Nat.div_one]; omega)

end

end Sys2Proof.Machine
end

section
/-!
PROOFS. The big-integer commands (spec/41_bigint.md): the byte-serial forms of R130 and R132 are the closed forms, and each
command writes the value its rule gives, and nothing else.
-/

namespace Sys2Proof.Machine

/-! ### Byte strings as numbers, from the first byte on -/

theorem bytesVal_cons (x : Byte) (l : List Byte) : bytesVal (x :: l) = x.toNat * 256 ^ l.length + bytesVal l := by
  induction l using List.reverseRecOn with
  | nil => simp [bytesVal]
  | append_singleton l y ih =>
    rw [← List.cons_append, bytesVal_append_singleton, ih, bytesVal_append_singleton, List.length_append,
      List.length_singleton, Nat.pow_succ]
    ring

theorem bytesVal_toBytes {n : Nat} (a : Big n) : bytesVal (toBytes a) = a.toNat := by
  rw [← toNat_ofBytes n (toBytes a) (length_toBytes a), ofBytes_toBytes]

/-- A byte string is that of the number it spells. -/
theorem eq_toBytes_of_bytesVal {n : Nat} {l : List Byte} {a : Big n} (hl : l.length = n) (h : bytesVal l = a.toNat) :
    l = toBytes a := by
  rw [← toBytes_ofBytes n l hl]
  exact congrArg toBytes (BitVec.eq_of_toNat_eq ((toNat_ofBytes n l hl).trans h))

theorem compare_add_left (c u v : Nat) : compare (c + u) (c + v) = compare u v := by
  rcases Nat.lt_trichotomy u v with h | rfl | h
  · rw [Nat.compare_eq_lt.2 h, Nat.compare_eq_lt.2 (Nat.add_lt_add_left h c)]
  · rw [Nat.compare_eq_eq.2 rfl, Nat.compare_eq_eq.2 rfl]
  · rw [Nat.compare_eq_gt.2 h, Nat.compare_eq_gt.2 (Nat.add_lt_add_left h c)]

/-- Comparing byte by byte compares the numbers (R130). -/
theorem cmpSerial_eq_compare (a b : List Byte) (h : a.length = b.length) :
    cmpSerial a b = compare (bytesVal a) (bytesVal b) := by
  induction a generalizing b with
  | nil =>
    obtain rfl := List.length_eq_zero_iff.1 h.symm
    rfl
  | cons x a ih =>
    match b, h with
    | y :: b, h =>
      rw [List.length_cons, List.length_cons, Nat.succ_inj] at h
      have ha := bytesVal_lt a
      have hb := bytesVal_lt b
      rw [← h] at hb
      rw [cmpSerial, bytesVal_cons, bytesVal_cons, ← h, ih b h]
      split
      · next hlt => exact (Nat.compare_eq_lt.2 (by nlinarith)).symm
      · split
        · next hgt => exact (Nat.compare_eq_gt.2 (by nlinarith)).symm
        · rw [show x.toNat = y.toNat by omega, compare_add_left]

/-- The byte-serial sum and carry make up the sum (R132). -/
theorem addSerial_spec (a b : List Byte) (h : a.length = b.length) :
    (addSerial a b).1.length = a.length ∧
      bytesVal (addSerial a b).1 + 256 ^ a.length * (addSerial a b).2 = bytesVal a + bytesVal b := by
  induction a generalizing b with
  | nil =>
    obtain rfl := List.length_eq_zero_iff.1 h.symm
    exact ⟨rfl, rfl⟩
  | cons x a ih =>
    match b, h with
    | y :: b, h =>
      rw [List.length_cons, List.length_cons, Nat.succ_inj] at h
      obtain ⟨hlen, hval⟩ := ih b h
      have hstep : addSerial (x :: a) (y :: b) =
          (BitVec.ofNat 8 (x.toNat + y.toNat + (addSerial a b).2) :: (addSerial a b).1,
            (x.toNat + y.toNat + (addSerial a b).2) / 256) := rfl
      generalize addSerial a b = r at hstep hlen hval
      rw [hstep]
      refine ⟨by rw [List.length_cons, hlen, List.length_cons], ?_⟩
      have hdigit := Nat.div_add_mod (x.toNat + y.toNat + r.2) 256
      rw [bytesVal_cons, bytesVal_cons, bytesVal_cons, hlen, ← h, List.length_cons, Nat.pow_succ, BitVec.toNat_ofNat]
      rw [show 2 ^ 8 = 256 from rfl]
      linear_combination hval + 256 ^ a.length * hdigit

/-- The byte-serial difference and borrow (R132). -/
theorem subSerial_spec (a b : List Byte) (h : a.length = b.length) :
    (subSerial a b).1.length = a.length ∧ (subSerial a b).2 ≤ 1 ∧
      bytesVal (subSerial a b).1 + bytesVal b = bytesVal a + 256 ^ a.length * (subSerial a b).2 := by
  induction a generalizing b with
  | nil =>
    obtain rfl := List.length_eq_zero_iff.1 h.symm
    exact ⟨rfl, Nat.zero_le _, rfl⟩
  | cons x a ih =>
    match b, h with
    | y :: b, h =>
      rw [List.length_cons, List.length_cons, Nat.succ_inj] at h
      obtain ⟨hlen, hborrow, hval⟩ := ih b h
      have hstep : subSerial (x :: a) (y :: b) =
          (BitVec.ofNat 8 (x.toNat + 256 - y.toNat - (subSerial a b).2) :: (subSerial a b).1,
            if x.toNat < y.toNat + (subSerial a b).2 then 1 else 0) := rfl
      generalize subSerial a b = r at hstep hlen hborrow hval
      have hx := x.isLt
      have hy := y.isLt
      have hdigit : (x.toNat + 256 - y.toNat - r.2) % 256 + y.toNat + r.2 =
          x.toNat + 256 * (if x.toNat < y.toNat + r.2 then 1 else 0) := by
        split <;> omega
      rw [hstep]
      refine ⟨by rw [List.length_cons, hlen, List.length_cons], by dsimp only; split <;> omega, ?_⟩
      rw [bytesVal_cons, bytesVal_cons, bytesVal_cons, hlen, ← h, List.length_cons, Nat.pow_succ, BitVec.toNat_ofNat]
      rw [show 2 ^ 8 = 256 from rfl]
      linear_combination hval + 256 ^ a.length * hdigit

section
variable {n : Nat} (a b : Big n)

theorem addSerial_toBytes : addSerial (toBytes a) (toBytes b) = (toBytes (addRaw a b).1, (addRaw a b).2) := by
  obtain ⟨hlen, hval⟩ := addSerial_spec (toBytes a) (toBytes b) (by simp)
  have hlt := bytesVal_lt (addSerial (toBytes a) (toBytes b)).1
  rw [length_toBytes] at hlen
  rw [length_toBytes, bytesVal_toBytes, bytesVal_toBytes] at hval
  rw [hlen] at hlt
  have hradix : 2 ^ (8 * n) = 256 ^ n := Nat.pow_mul 2 8 n
  refine Prod.ext (eq_toBytes_of_bytesVal hlen ?_) ?_
  · rw [toNat_addRaw, ← hval, hradix, Nat.add_mul_mod_self_left, Nat.mod_eq_of_lt hlt]
  · show _ = (a.toNat + b.toNat) / 2 ^ (8 * n)
    rw [← hval, hradix, Nat.add_mul_div_left _ _ (Nat.pow_pos (by decide)), Nat.div_eq_of_lt hlt, Nat.zero_add]

theorem subSerial_toBytes :
    subSerial (toBytes a) (toBytes b) = (toBytes (subRaw a b).1, if (subRaw a b).2 then 1 else 0) := by
  obtain ⟨hlen, hborrow, hval⟩ := subSerial_spec (toBytes a) (toBytes b) (by simp)
  have hlt := bytesVal_lt (subSerial (toBytes a) (toBytes b)).1
  rw [length_toBytes] at hlen
  rw [length_toBytes, bytesVal_toBytes, bytesVal_toBytes] at hval
  rw [hlen] at hlt
  have hradix : 2 ^ (8 * n) = 256 ^ n := Nat.pow_mul 2 8 n
  have ha := a.isLt
  have hb := b.isLt
  rw [hradix] at ha hb
  rcases Nat.le_one_iff_eq_zero_or_eq_one.1 hborrow with h | h
  · rw [h] at hval
    refine Prod.ext (eq_toBytes_of_bytesVal hlen ?_) ?_
    · rw [toNat_subRaw, if_pos (by omega)]; omega
    · show (subSerial (toBytes a) (toBytes b)).2 = _
      rw [h, subRaw_borrow, decide_eq_false (by omega)]
      rfl
  · rw [h] at hval
    refine Prod.ext (eq_toBytes_of_bytesVal hlen ?_) ?_
    · rw [toNat_subRaw, if_neg (by omega), hradix]; omega
    · show (subSerial (toBytes a) (toBytes b)).2 = _
      rw [h, subRaw_borrow, decide_eq_true (by omega)]
      rfl

end

/-! ### Reading the operands of a command -/

section
variable {s : State} {w : Width} {ra rb rn : Reg} {a b n : Big w.bytes}

theorem State.finish_operand {c : FaultCode} {f : Big w.bytes → Except FaultCode State} (ha : s.b.get ra = .val w a) :
    s.finish (s.operand c w ra >>= f) = s.finish (f a) := State.finish_bind_ok (State.operand_eq_ok.2 ha)

theorem State.finish_operand₂ {c : FaultCode} {f : Big w.bytes → Big w.bytes → Except FaultCode State}
    (ha : s.b.get ra = .val w a) (hb : s.b.get rb = .val w b) :
    s.finish (do let a ← s.operand c w ra; let b ← s.operand c w rb; f a b) = s.finish (f a b) :=
  (State.finish_operand ha).trans (State.finish_operand hb)

theorem State.finish_operand₃ {c : FaultCode} {f : Big w.bytes → Big w.bytes → Big w.bytes → Except FaultCode State}
    (ha : s.b.get ra = .val w a) (hb : s.b.get rb = .val w b) (hn : s.b.get rn = .val w n) :
    s.finish (do let a ← s.operand c w ra; let b ← s.operand c w rb; let n ← s.operand c w rn; f a b n) =
      s.finish (f a b n) :=
  (State.finish_operand₂ ha hb).trans (State.finish_operand hn)

end

theorem Width.bytes_pos (w : Width) : 0 < w.bytes := by cases w <;> decide

/-! ### Montgomery form -/

section
variable {N : Nat}

/-- Every residue is the Montgomery form of some number, for an odd modulus. -/
theorem exists_montgomery (hodd : N % 2 = 1) (h1 : 1 < N) (a k : Nat) : ∃ x, a ≡ x * 2 ^ k [MOD N] := by
  obtain ⟨y, -, hy⟩ := Nat.exists_mul_mod_eq_one_of_coprime (coprime_radix hodd k).symm h1
  have hone : 2 ^ k * y ≡ 1 [MOD N] := by rw [Nat.ModEq, hy, Nat.mod_eq_of_lt h1]
  refine ⟨a * y, ?_⟩
  calc a = a * 1 := (Nat.mul_one a).symm
    _ ≡ a * (2 ^ k * y) [MOD N] := hone.symm.mul_left a
    _ = a * y * 2 ^ k := by ring

/-- Out of Montgomery form and back (R137). -/
theorem mulValue_toMonValue {n a : Nat} (hn : 0 < n) (hN : N ≤ 2 ^ (8 * n)) (hodd : N % 2 = 1) (ha : a < N) :
    mulValue n N (toMonValue n N a) 1 = a := by
  have hone : 1 < 2 ^ (8 * n) := Nat.one_lt_two_pow (by omega)
  rw [toMonValue_eq_mod hN ha]
  have hlt : a * 2 ^ (8 * n) % N < N := Nat.mod_lt _ (by omega)
  have hmul := mulValue_modEq hN hodd hlt hone
  rw [Nat.mul_one] at hmul
  have hcancel := Nat.ModEq.cancel_right_of_coprime (coprime_radix hodd _) (hmul.trans (Nat.mod_modEq _ _))
  exact Nat.ModEq.eq_of_lt_of_lt hcancel (mulValue_lt hN hlt 1) ha

/-- The power `N - 2` inverts modulo an odd prime (R141). -/
theorem expValue_inverse {n a : Nat} (hN : N < 2 ^ (8 * n)) (hp : N.Prime) (h2 : N ≠ 2) (hpos : 0 < a) (ha : a < N)
    {bits : Nat} (hbits : N - 2 < 2 ^ bits) :
    expValue n N a (N - 2) bits < N ∧
      a * expValue n N a (N - 2) bits ≡ 2 ^ (8 * n) * 2 ^ (8 * n) [MOD N] := by
  have hodd : N % 2 = 1 := hp.eq_two_or_odd.resolve_left h2
  obtain ⟨x, hx⟩ := exists_montgomery hodd hp.one_lt a (8 * n)
  obtain ⟨hlt, hmod⟩ := expValue_spec hN.le hodd hp.one_lt ha hx hbits
  refine ⟨hlt, ?_⟩
  have hxN : ¬ N ∣ x := fun hdvd => by
    have hzero : a ≡ 0 [MOD N] := hx.trans (Nat.modEq_zero_iff_dvd.2 (hdvd.mul_right _))
    exact absurd (Nat.ModEq.eq_of_lt_of_lt hzero ha hp.pos) (by omega)
  have hfermat : x ^ (N - 1) ≡ 1 [MOD N] := by
    rw [← Nat.totient_prime hp]
    exact Nat.ModEq.pow_totient ((Nat.Prime.coprime_iff_not_dvd hp).2 hxN).symm
  have htwo := hp.two_le
  calc a * expValue n N a (N - 2) bits
      ≡ x * 2 ^ (8 * n) * (x ^ (N - 2) * 2 ^ (8 * n)) [MOD N] := hx.mul hmod
    _ = x ^ (N - 2 + 1) * (2 ^ (8 * n) * 2 ^ (8 * n)) := by ring
    _ = x ^ (N - 1) * (2 ^ (8 * n) * 2 ^ (8 * n)) := by rw [show N - 2 + 1 = N - 1 by omega]
    _ ≡ 1 * (2 ^ (8 * n) * 2 ^ (8 * n)) [MOD N] := hfermat.mul_right _
    _ = 2 ^ (8 * n) * 2 ^ (8 * n) := Nat.one_mul _

end

/-- The exponent of `BNMONINV` for a modulus of at least 2: the difference does not wrap (R141). -/
theorem inverse_exponent {M N : Nat} (h2 : 2 ≤ N) (hN : N < M) : (N + M - 2) % M = N - 2 := by
  rw [show N + M - 2 = N - 2 + M by omega, Nat.add_mod_right, Nat.mod_eq_of_lt (by omega)]

/-! ### The obligations -/

/-- Settles O34: comparing the byte strings compares the numbers, which is what the command does. -/
theorem bncmpComparesBytes : Obligations.BncmpComparesBytes := by
  intro s ra rb w a b ha hb
  have hcmp : cmpSerial (toBytes a) (toBytes b) = compare a.toNat b.toNat := by
    rw [cmpSerial_eq_compare _ _ (by simp), bytesVal_toBytes, bytesVal_toBytes]
  rw [hcmp]
  exact ⟨State.finish_operand₂ ha hb, Nat.compare_eq_lt, Nat.compare_eq_gt⟩

/-- Settles O35: byte by byte, from the last byte on, with carry and borrow. -/
theorem rawSumsAreByteSerial : Obligations.RawSumsAreByteSerial := by
  intro n a b
  refine ⟨addSerial_toBytes a b, subSerial_toBytes a b, toNat_addRaw a b, rfl, toNat_subRaw_eq a b, ?_⟩
  rw [subRaw_borrow, decide_eq_true_iff]

/-- Settles O36: reading the operands leaves `bnAdd`, whose value is that of the pseudocode. -/
theorem bnaddAddsModuloN : Obligations.BnaddAddsModuloN := by
  intro s rd ra rb rn w a b n ha hb hn
  refine ⟨_, bnAdd a b n, State.finish_operand₃ ha hb hn, s.retire_setReg_get rd _, s.onlyRegs_setReg rd _, ?_, ?_⟩
  · rintro x rfl
    exact toNat_bnAdd a b n
  · intro ha hb
    rw [toNat_bnAdd_eq, addValue_eq_mod n.isLt.le ha hb]

/-- Settles O37: reading the operands leaves `subRaw`. -/
theorem bnsubWritesBorrow : Obligations.BnsubWritesBorrow := by
  intro s rd ra rb w a b ha hb
  refine ⟨_, (subRaw a b).1, State.finish_operand₂ ha hb, s.retire_setReg_get rd _, toNat_subRaw_eq a b, ?_,
    fun r hr => (s.setReg_get rd r _).trans (if_neg hr)⟩
  rw [← subRaw_borrow]
  rfl

/-- Settles O38: reading the operands leaves `bnSubm`, whose value is that of the pseudocode. -/
theorem bnsubmSubtractsModuloN : Obligations.BnsubmSubtractsModuloN := by
  intro s rd ra rb rn w a b n ha hb hn
  refine ⟨_, bnSubm a b n, State.finish_operand₃ ha hb hn, s.retire_setReg_get rd _, s.onlyRegs_setReg rd _, ?_, ?_, ?_⟩
    <;> rw [toNat_bnSubm_eq]
  · exact fun hle => if_pos hle
  · exact fun hlt => if_neg (Nat.not_le.2 hlt)
  · exact fun ha hb => subValue_eq_mod n.isLt.le ha hb

/-- Settles O39: reading the operands leaves `bnRed`, whose value is that of the pseudocode. -/
theorem bnredSubtractsOnce : Obligations.BnredSubtractsOnce := by
  intro s rd ra rn w a n ha hn
  refine ⟨_, bnRed a n, State.finish_operand₂ ha hn, s.retire_setReg_get rd _, s.onlyRegs_setReg rd _, toNat_bnRed a n,
    fun hlt => ?_⟩
  rw [toNat_bnRed_eq, redValue_eq_mod hlt]

/-- Settles O40: reading the operands leaves `bnToMon`, whose doublings multiply by the radix. -/
theorem bntomonMultipliesByRadix : Obligations.BntomonMultipliesByRadix := by
  intro s rd ra rn w a n ha hn
  refine ⟨_, bnToMon a n, State.finish_operand₂ ha hn, s.retire_setReg_get rd _, s.onlyRegs_setReg rd _,
    toNat_bnToMon a n, fun hlt => ?_⟩
  rw [toNat_bnToMon, toMonValue_eq_mod n.isLt.le hlt]

/-- Settles O41: the Montgomery product with 1. -/
theorem bnfrommonDividesByRadix : Obligations.BnfrommonDividesByRadix := by
  intro s rd ra rn w a n ha hn
  refine ⟨_, bnFromMon a n, State.finish_operand₂ ha hn, s.retire_setReg_get rd _, s.onlyRegs_setReg rd _,
    toNat_bnFromMon (Width.bytes_pos w) a n, fun hodd hlt => ?_⟩
  have hone : 1 < 2 ^ (8 * w.bytes) := Nat.one_lt_two_pow (by have := Width.bytes_pos w; omega)
  rw [toNat_bnFromMon (Width.bytes_pos w)]
  exact ⟨mulValue_lt n.isLt.le hlt 1, by simpa using mulValue_modEq n.isLt.le hodd hlt hone⟩

/-- Settles O42: where the modulus is still there the radix cancels. -/
theorem montgomeryRoundTrip : Obligations.MontgomeryRoundTrip := by
  intro s rd re ra rn w a n ha hn hlt
  have hd : (s.setReg rd (.val w (bnToMon a n))).retire.b.get rd = .val w (bnToMon a n) := s.retire_setReg_get rd _
  by_cases hdn : rd = rn
  · subst hdn
    refine ⟨_, _, _, State.finish_operand₂ ha hn, State.finish_operand₂ hd hd, State.retire_setReg_get _ re _,
      fun hne => absurd rfl hne, ?_⟩
    rintro - m rfl
    rw [toNat_bnFromMon (Width.bytes_pos w), toNat_bnToMon, toMonValue_eq_mod n.isLt.le hlt]
  · have hn' : (s.setReg rd (.val w (bnToMon a n))).retire.b.get rn = .val w n :=
      (s.setReg_get rd rn _).trans (by rw [if_neg (Ne.symm hdn), hn])
    refine ⟨_, _, _, State.finish_operand₂ ha hn, State.finish_operand₂ hd hn', State.retire_setReg_get _ re _,
      fun _ hodd => BitVec.eq_of_toNat_eq ?_, fun heq => absurd heq hdn⟩
    rw [toNat_bnFromMon (Width.bytes_pos w), toNat_bnToMon, mulValue_toMonValue (Width.bytes_pos w) n.isLt.le hodd hlt]

/-- Settles O43: the table entry of the last byte of an odd modulus makes the digit factor the one that divides. -/
theorem digitStepDividesExactly : Obligations.DigitStepDividesExactly := by
  intro n d a N bj _
  rw [toNat_monDigit]
  refine ⟨rfl, fun hodd hd ha =>
    ⟨⟨BitVec.ofNat 8 (digitFactor N.toNat a.toNat d.toNat bj.toNat), fun y => ?_, ?_⟩, ?_⟩⟩
  · have hz : digitFactor N.toNat a.toNat d.toNat bj.toNat < 256 := Nat.mod_lt _ (by decide)
    rw [digit_sum_mod_iff hodd, ZMod.natCast_eq_natCast_iff', Nat.mod_eq_of_lt y.isLt, Nat.mod_eq_of_lt hz,
      ← BitVec.toNat_inj, BitVec.toNat_ofNat, Nat.mod_eq_of_lt hz]
  · have hz : digitFactor N.toNat a.toNat d.toNat bj.toNat < 2 ^ 8 := Nat.mod_lt _ (by decide)
    rw [BitVec.toNat_ofNat, Nat.mod_eq_of_lt hz]
    exact digitValue_modEq N.isLt.le hodd hd ha bj.isLt
  · exact digitValue_lt N.isLt.le hd ha bj.isLt

/-- Settles O44: one digit step per byte of `b`. -/
theorem bnmonmulMultiplies : Obligations.BnmonmulMultiplies := by
  intro s rd ra rb rn w a b n ha hb hn
  refine ⟨_, monMul a b n, State.finish_operand₃ ha hb hn, s.retire_setReg_get rd _, s.onlyRegs_setReg rd _,
    toNat_monMul a b n, ?_, ?_⟩ <;> rw [toNat_monMul]
  · exact fun hodd hlt => ⟨mulValue_lt n.isLt.le hlt _, mulValue_modEq n.isLt.le hodd hlt b.isLt⟩
  · exact mulValue_zero _ _

/-- Settles O45: one squaring, and a multiplication where the bit is 1, per bit of the exponent. -/
theorem bnmonexpRaisesToPower : Obligations.BnmonexpRaisesToPower := by
  intro s rd ra rb rn w we a n e ha hb hn
  refine ⟨_, monExp a e n, (State.finish_operand ha).trans <|
    (State.finish_bind_ok (State.operandScalar_eq_ok (k := ⟨we, e⟩).2 hb)).trans (State.finish_operand hn),
    s.retire_setReg_get rd _, s.onlyRegs_setReg rd _, toNat_monExp (Width.bytes_pos w) a n e, fun hodd h1 hlt => ?_⟩
  rw [toNat_monExp (Width.bytes_pos w)]
  obtain ⟨x, hx⟩ := exists_montgomery hodd h1 a.toNat (8 * w.bytes)
  exact ⟨(expValue_spec n.isLt.le hodd h1 hlt hx e.isLt).1,
    fun y hy => (expValue_spec n.isLt.le hodd h1 hlt hy e.isLt).2⟩

/-- Settles O46: the power with the exponent `N - 2`, which inverts by Fermat's theorem. -/
theorem bnmoninvInverts : Obligations.BnmoninvInverts := by
  intro s rd ra rn w a n ha hn
  refine ⟨_, monInv a n, State.finish_operand₂ ha hn, s.retire_setReg_get rd _, s.onlyRegs_setReg rd _,
    toNat_monInv (Width.bytes_pos w) a n, ?_, ?_⟩ <;> rw [toNat_monInv (Width.bytes_pos w)]
  · intro hp h2 hpos hlt
    rw [inverse_exponent hp.two_le n.isLt]
    exact expValue_inverse n.isLt hp h2 hpos hlt (Nat.lt_of_le_of_lt (Nat.sub_le _ _) n.isLt)
  · intro h3 hzero
    rw [inverse_exponent (by omega) n.isLt, hzero]
    exact expValue_zero _ _ (Nat.lt_of_le_of_lt (Nat.sub_le _ _) n.isLt) (by omega)

end Sys2Proof.Machine
end

section
/-!
PROOFS. The curve context and the point commands (spec/42_curve.md): where the parameters stand in `DMEM`, the point formulas
over an odd prime, and double-and-add.
-/

namespace Sys2Proof.Machine

/-! ### Integers in memory -/

section
variable (s : State)

/-- The integer of a slice of what is read is spelled where the slice begins (R65). -/
theorem State.spells_slice (a : Nat) {n i j k : Nat} (hj : j ≤ n) (hk : j - i = k) :
    s.spells (a + i) (ofBytes k (slice (s.dmem.readBytes a n) i j)) := fun m hm => by
  have hlen : (slice (s.dmem.readBytes a n) i j).length = k := by
    rw [length_slice _ _ _ (by simpa using hj), hk]
  rw [byteAt_ofBytes k _ hlen m (by omega), getElem_slice, Memory.getElem_readBytes, Nat.add_assoc]

/-- A place spells one integer of each length. -/
theorem State.spells_unique {a n : Nat} {x y : Big n} (hx : s.spells a x) (hy : s.spells a y) : x = y :=
  eq_of_byteAt_eq x y fun i hi => (hx i hi).symm.trans (hy i hi)

/-- Integers stored one after the other are spelled at their places. -/
theorem State.spells_flatMap (hm : s.dmem.wf) (a : Nat) {n : Nat} (l : List (Big n)) (j : Nat) (hj : j < l.length) :
    (s.storeBytes a (l.flatMap toBytes)).retire.spells (a + n * j) l[j] := fun i hi => by
  have hlen (l : List (Big n)) : (l.flatMap toBytes).length = n * l.length := by
    simp [List.length_flatMap, Nat.mul_comm]
  have hsplit : l.flatMap toBytes =
      (l.take j).flatMap toBytes ++ (toBytes l[j] ++ (l.drop (j + 1)).flatMap toBytes) := by
    rw [← List.flatMap_cons, ← List.flatMap_append, ← List.drop_eq_getElem_cons hj, List.take_append_drop]
  have hpre : ((l.take j).flatMap toBytes).length = n * j := by
    rw [hlen, List.length_take, Nat.min_eq_left (Nat.le_of_lt hj)]
  refine (Memory.read_writeBytes _ hm a _ _).trans ?_
  have hidx : a + n * j + i - a = n * j + i := by omega
  rw [dif_pos ⟨by omega, by rw [hsplit, List.length_append, List.length_append, length_toBytes, hpre]; omega⟩]
  simp only [hidx, hsplit]
  rw [List.getElem_append_right (by omega), List.getElem_append_left (by rw [length_toBytes]; omega), getElem_toBytes]
  congr 1
  omega

end

theorem CurveContext.dump_eq_flatMap (c : CurveContext) :
    c.dump = [c.cp, c.ca, c.cb, c.cn, c.cgx, c.cgy].flatMap toBytes := by
  simp only [CurveContext.dump, List.flatMap_cons, List.flatMap_nil, List.append_assoc, List.append_nil]

/-! ### Zero and infinity -/

theorem toMonValue_zero (n N : Nat) : toMonValue n N 0 = 0 := by
  refine foldl_range_induction (fun _ d => d = 0) (8 * n) rfl fun i d _ hd => ?_
  have hM : ¬ 2 ^ (8 * n) ≤ 0 := Nat.not_le.2 (Nat.two_pow_pos _)
  subst hd
  simp [addValue, hM, redValue]

theorem Big.toNat_zero (n : Nat) : (0 : Big n).toNat = 0 := BitVec.toNat_zero

theorem Point.eq_inf {P : Point} (hx : P.x.toNat = 0) (hy : P.y.toNat = 0) : P = Point.inf := by
  obtain ⟨x, y⟩ := P
  exact congrArg₂ Point.mk (BitVec.eq_of_toNat_eq hx) (BitVec.eq_of_toNat_eq hy)

theorem bnSubm_self {n : Nat} (a N : Big n) : bnSubm a a N = 0 := by
  apply BitVec.eq_of_toNat_eq
  rw [toNat_bnSubm, if_pos le_rfl, Nat.sub_self]
  rfl

/-- A modular difference is zero in the value of its pseudocode (R134). -/
theorem bnSubm_eq_zero {n : Nat} {a b N : Big n} :
    bnSubm a b N = 0 ↔ subValue (2 ^ (8 * n)) N.toNat a.toNat b.toNat = 0 := by
  rw [← toNat_bnSubm_eq, ← BitVec.toNat_inj]
  rfl

/-- Below the modulus a modular difference is zero for equal operands only. -/
theorem bnSubm_eq_zero_iff {n : Nat} {a b N : Big n} (hb : b.toNat < N.toNat) : bnSubm a b N = 0 ↔ a = b := by
  have hN := N.isLt
  have ha := a.isLt
  rw [bnSubm_eq_zero, subValue, ← BitVec.toNat_inj]
  split
  · omega
  · rw [show a.toNat + N.toNat + 2 ^ (8 * n) - b.toNat = a.toNat + N.toNat - b.toNat + 2 ^ (8 * n) by omega,
      Nat.add_mod_right, Nat.mod_eq_of_lt (by omega)]
    omega

section
variable (p ca : Big 20)

@[simp] theorem pDbl_inf : pDbl p ca Point.inf = Point.inf := if_pos rfl

@[simp] theorem pAdd_inf_left (Q : Point) : pAdd p ca Point.inf Q = Q := if_pos rfl

theorem pAdd_inf_right (P : Point) : pAdd p ca P Point.inf = P := by
  unfold pAdd
  split
  · next h => exact h.symm
  · exact if_pos rfl

variable {p ca} {P Q : Point}

/-- Two finite points with `u = 0` (R165). -/
theorem pAdd_of_same_x (hP : P ≠ Point.inf) (hQ : Q ≠ Point.inf) (hu : bnSubm Q.x P.x p = 0) :
    pAdd p ca P Q = if bnSubm Q.y P.y p = 0 then pDbl p ca P else Point.inf := by
  unfold pAdd
  rw [if_neg hP, if_neg hQ]
  exact if_pos hu

variable (p ca) in
/-- A point added to itself is doubled (R165). -/
theorem pAdd_self (P : Point) : pAdd p ca P P = pDbl p ca P := by
  by_cases hP : P = Point.inf
  · subst hP
    rw [pAdd_inf_left, pDbl_inf]
  · rw [pAdd_of_same_x hP hP (bnSubm_self _ _), if_pos (bnSubm_self _ _)]

end

/-! ### Montgomery forms of residues -/

/-- `m` is below the modulus `N` and the Montgomery form of the residue `x` (R24, R136). -/
structure Represents {n : Nat} (N m : Big n) (x : ZMod N.toNat) : Prop where
  lt : m.toNat < N.toNat
  form : (m.toNat : ZMod N.toNat) = x * 2 ^ (8 * n)

section
variable {n : Nat} {N a b : Big n} {x y : ZMod N.toNat}

/-- The radix is invertible modulo an odd number. -/
theorem isUnit_radix (hodd : N.toNat % 2 = 1) : IsUnit (2 ^ (8 * n) : ZMod N.toNat) := by
  have h := (ZMod.isUnit_iff_coprime (2 ^ (8 * n)) N.toNat).2 (coprime_radix hodd _).symm
  simpa using h

theorem exists_represents (hodd : N.toNat % 2 = 1) (ha : a.toNat < N.toNat) : ∃ x, Represents N a x := by
  obtain ⟨v, hv⟩ := isUnit_radix hodd
  exact ⟨a.toNat * ↑v⁻¹, ha, by rw [mul_assoc, ← hv, Units.inv_mul, mul_one]⟩

theorem Represents.add (hx : Represents N a x) (hy : Represents N b y) : Represents N (bnAdd a b N) (x + y) := by
  have hval := (toNat_bnAdd_eq a b N).trans (addValue_eq_mod N.isLt.le hx.lt hy.lt)
  refine ⟨hval ▸ Nat.mod_lt _ (Nat.zero_lt_of_lt hx.lt), ?_⟩
  rw [hval, ZMod.natCast_mod, Nat.cast_add, hx.form, hy.form, add_mul]

theorem Represents.sub (hx : Represents N a x) (hy : Represents N b y) : Represents N (bnSubm a b N) (x - y) := by
  have hval := (toNat_bnSubm_eq a b N).trans (subValue_eq_mod N.isLt.le hx.lt hy.lt)
  refine ⟨hval ▸ Nat.mod_lt _ (Nat.zero_lt_of_lt hx.lt), ?_⟩
  rw [hval, ZMod.natCast_mod, Nat.cast_sub (by have := hy.lt; omega), Nat.cast_add, ZMod.natCast_self, add_zero,
    hx.form, hy.form, sub_mul]

theorem Represents.mul (hodd : N.toNat % 2 = 1) (hx : Represents N a x) (hy : Represents N b y) :
    Represents N (monMul a b N) (x * y) := by
  refine ⟨toNat_monMul a b N ▸ mulValue_lt N.isLt.le hx.lt _, (isUnit_radix hodd).mul_right_cancel ?_⟩
  have hmod := (ZMod.natCast_eq_natCast_iff _ _ _).2 (mulValue_modEq N.isLt.le hodd hx.lt b.isLt)
  push_cast at hmod
  rw [toNat_monMul, hmod, hx.form, hy.form]
  ring

/-- Over an odd prime the modular inverse represents an inverse (R141). -/
theorem Represents.inv (hn : 0 < n) (hp : N.toNat.Prime) (h2 : N.toNat ≠ 2) (hx : Represents N a x) (ha : a ≠ 0) :
    ∃ z, z * x = 1 ∧ Represents N (monInv a N) z := by
  have hodd : N.toNat % 2 = 1 := hp.eq_two_or_odd.resolve_left h2
  have hpos : 0 < a.toNat := Nat.pos_of_ne_zero fun h => ha (BitVec.eq_of_toNat_eq h)
  have hval := toNat_monInv hn a N
  rw [inverse_exponent hp.two_le N.isLt] at hval
  obtain ⟨hlt, hmod⟩ := expValue_inverse N.isLt hp h2 hpos hx.lt (Nat.lt_of_le_of_lt (Nat.sub_le _ _) N.isLt)
  rw [← hval] at hlt hmod
  obtain ⟨z, hz⟩ := exists_represents hodd hlt
  have hcast := (ZMod.natCast_eq_natCast_iff _ _ _).2 hmod
  push_cast at hcast
  rw [hx.form, hz.form] at hcast
  refine ⟨z, ((isUnit_radix hodd).mul (isUnit_radix hodd)).mul_right_cancel ?_, hz⟩
  linear_combination hcast

theorem Represents.toMon (ha : a.toNat < N.toNat) : Represents N (bnToMon a N) a.toNat := by
  have hval := (toNat_bnToMon a N).trans (toMonValue_eq_mod N.isLt.le ha)
  refine ⟨hval ▸ Nat.mod_lt _ (Nat.zero_lt_of_lt ha), ?_⟩
  rw [hval, ZMod.natCast_mod, Nat.cast_mul, Nat.cast_pow, Nat.cast_ofNat]

theorem Represents.fromMon (hn : 0 < n) (hodd : N.toNat % 2 = 1) (hx : Represents N a x) :
    (bnFromMon a N).toNat < N.toNat ∧ ((bnFromMon a N).toNat : ZMod N.toNat) = x := by
  have hone : 1 < 2 ^ (8 * n) := Nat.one_lt_two_pow (by omega)
  have hmod := (ZMod.natCast_eq_natCast_iff _ _ _).2 (mulValue_modEq N.isLt.le hodd hx.lt hone)
  rw [toNat_bnFromMon hn]
  refine ⟨mulValue_lt N.isLt.le hx.lt 1, (isUnit_radix hodd).mul_right_cancel ?_⟩
  push_cast at hmod
  rw [hmod, hx.form, mul_one]

/-- Modulo an odd number, twice a nonzero residue is not zero. -/
theorem bnAdd_self_ne_zero (hodd : N.toNat % 2 = 1) (ha : a.toNat < N.toNat) (hne : a ≠ 0) : bnAdd a a N ≠ 0 := by
  intro hzero
  have hval := (toNat_bnAdd_eq a a N).trans (addValue_eq_mod N.isLt.le ha ha)
  rw [hzero, Big.toNat_zero] at hval
  have hdvd : N.toNat ∣ 2 * a.toNat := by rw [Nat.two_mul]; exact Nat.dvd_of_mod_eq_zero hval.symm
  have hcop : Nat.Coprime N.toNat 2 := by simpa using coprime_radix hodd 1
  exact hne (BitVec.eq_of_toNat_eq (Nat.eq_zero_of_dvd_of_lt (hcop.dvd_of_dvd_mul_left hdvd) ha))

end

/-! ### The point formulas -/

section
variable {p ca : Big 20} {P Q : Point}

/-- Doubling follows the tangent (R164). -/
theorem pDbl_represents (hp : p.toNat.Prime) (h2 : p.toNat ≠ 2) {x y a : ZMod p.toNat} (hx : Represents p P.x x)
    (hy : Represents p P.y y) (ha : Represents p ca a) (hne : P.y ≠ 0) :
    ∃ m, m * (2 * y) = 3 * x ^ 2 + a ∧ Represents p (pDbl p ca P).x (m ^ 2 - 2 * x) ∧
      Represents p (pDbl p ca P).y (m * (x - (m ^ 2 - 2 * x)) - y) := by
  have hodd : p.toNat % 2 = 1 := hp.eq_two_or_odd.resolve_left h2
  obtain ⟨z, hz, hinv⟩ := (hy.add hy).inv (by decide) hp h2 (bnAdd_self_ne_zero hodd hy.lt hne)
  have hsq := hx.mul hodd hx
  have hm := (((hsq.add hsq).add hsq).add ha).mul hodd hinv
  refine ⟨(x * x + x * x + x * x + a) * z, by linear_combination (3 * x ^ 2 + a) * hz, ?_⟩
  have hrx := (hm.mul hodd hm).sub (hx.add hx)
  rw [← pow_two, ← two_mul x] at hrx
  rw [pDbl, if_neg hne]
  exact ⟨hrx, (hm.mul hodd (hx.sub hrx)).sub hy⟩

/-- Addition follows the chord (R165). -/
theorem pAdd_represents (hp : p.toNat.Prime) (h2 : p.toNat ≠ 2) {x y x' y' : ZMod p.toNat} (hx : Represents p P.x x)
    (hy : Represents p P.y y) (hx' : Represents p Q.x x') (hy' : Represents p Q.y y') (hP : P ≠ Point.inf)
    (hQ : Q ≠ Point.inf) (hne : P.x ≠ Q.x) :
    ∃ m, m * (x' - x) = y' - y ∧ Represents p (pAdd p ca P Q).x (m ^ 2 - (x + x')) ∧
      Represents p (pAdd p ca P Q).y (m * (x - (m ^ 2 - (x + x'))) - y) := by
  have hodd : p.toNat % 2 = 1 := hp.eq_two_or_odd.resolve_left h2
  have hu : bnSubm Q.x P.x p ≠ 0 := fun h => hne ((bnSubm_eq_zero_iff hx.lt).1 h).symm
  obtain ⟨z, hz, hinv⟩ := (hx'.sub hx).inv (by decide) hp h2 hu
  have hm := (hy'.sub hy).mul hodd hinv
  refine ⟨(y' - y) * z, by linear_combination (y' - y) * hz, ?_⟩
  have hrx := (hm.mul hodd hm).sub (hx.add hx')
  rw [← pow_two] at hrx
  rw [pAdd, if_neg hP, if_neg hQ]
  dsimp only
  rw [if_neg hu]
  exact ⟨hrx, (hm.mul hodd (hx.sub hrx)).sub hy⟩

end

/-! ### Double-and-add -/

/-- The multiple of a point by a number, by its binary digits (R166). -/
def multiple (p ca : Big 20) (P : Point) : Nat → Point :=
  Nat.binaryRec Point.inf fun bit _ d => pMulStep p ca P bit d

section
variable (p ca : Big 20) (P : Point)

theorem multiple_zero : multiple p ca P 0 = Point.inf := Nat.binaryRec_zero _ _

theorem multiple_step (bit : Bool) (j : Nat) :
    multiple p ca P (2 * j + bit.toNat) = pMulStep p ca P bit (multiple p ca P j) := by
  rw [← Nat.bit_val]
  exact Nat.binaryRec_eq bit j (.inl (pDbl_inf p ca))

theorem multiple_one : multiple p ca P 1 = P := by
  have h := multiple_step p ca P true 0
  rw [multiple_zero] at h
  simpa [pMulStep] using h

theorem multiple_inf (k : Nat) : multiple p ca Point.inf k = Point.inf := by
  induction k using Nat.binaryRec with
  | zero => exact multiple_zero _ _ _
  | bit b j ih =>
    rw [Nat.bit_val, multiple_step, ih, pMulStep]
    cases b <;> simp

theorem pMulFrom_succ {m : Nat} (k : Big m) (count t : Nat) (d : Point) :
    pMulFrom p ca k P (count + 1) t d = pMulFrom p ca k P count (t + 1) (pMulStep p ca P (k.getMsbD t) d) := by
  simp [pMulFrom]

/-- The passes that remain make the multiple of the bits seen so far the multiple of the whole scalar. -/
theorem pMulFrom_multiple {m : Nat} (k : Big m) (count t : Nat) (ht : t + count = 8 * m) :
    pMulFrom p ca k P count t (multiple p ca P (k.toNat / 2 ^ count)) = multiple p ca P k.toNat := by
  induction count generalizing t with
  | zero => rw [Nat.pow_zero, Nat.div_one, pMulFrom]
  | succ c ih =>
    have hbit : k.getMsbD t = k.toNat.testBit c := by
      rw [BitVec.getMsbD_eq_getLsbD, decide_eq_true (by omega), Bool.true_and, BitVec.getLsbD,
        show 8 * m - 1 - t = c by omega]
    rw [pMulFrom_succ, hbit, ← multiple_step, ← exponent_step, ih (t + 1) (by omega)]

theorem pMul_eq_multiple {m : Nat} (k : Big m) : pMul p ca k P = multiple p ca P k.toNat := by
  have h := pMulFrom_multiple p ca P k (8 * m) 0 (Nat.zero_add _)
  rwa [Nat.div_eq_of_lt k.isLt, multiple_zero] at h

end

/-! ### Running the point commands -/

section
variable {s : State} {rd ra rb : Reg} {P Q : Point}

theorem all_isEven_pair (hd : rd.isEven = true) (ha : ra.isEven = true) : [rd, ra].all Reg.isEven = true := by
  simp [hd, ha]

/-- Reading one point, after the checks of R101 and R227. -/
theorem State.finish_point {f : CurveContext → Point → Except FaultCode State} (hd : rd.isEven = true)
    (ha : ra.isEven = true) (hcrv : s.crv = true) (hP : s.holdsPoint ra P) :
    s.finish (do
      requirePairs [rd, ra]
      let c ← s.operandCurve
      let P ← s.operandPoint .invalidLength ra
      f c P) = s.finish (f s.curve P) :=
  (State.finish_pairs_curve (all_isEven_pair hd ha) hcrv).trans
    (State.finish_bind_ok (State.operandPoint_eq_ok.2 hP))

theorem exec_ptomon (hd : rd.isEven = true) (ha : ra.isEven = true) (hcrv : s.crv = true) (hP : s.holdsPoint ra P) :
    exec (.ptomon rd ra) s = .next (s.setPair rd (pToMon s.curve.cp P)).retire :=
  State.finish_point hd ha hcrv hP

theorem exec_pfrommon (hd : rd.isEven = true) (ha : ra.isEven = true) (hcrv : s.crv = true) (hP : s.holdsPoint ra P) :
    exec (.pfrommon rd ra) s = .next (s.setPair rd (pFromMon s.curve.cp P)).retire :=
  State.finish_point hd ha hcrv hP

theorem exec_pdbl (hd : rd.isEven = true) (ha : ra.isEven = true) (hcrv : s.crv = true) (hP : s.holdsPoint ra P) :
    exec (.pdbl rd ra) s = .next (s.setPair rd (pDbl s.curve.cp s.curve.ca P)).retire :=
  State.finish_point hd ha hcrv hP

theorem exec_padd (hd : rd.isEven = true) (ha : ra.isEven = true) (hb : rb.isEven = true) (hcrv : s.crv = true)
    (hP : s.holdsPoint ra P) (hQ : s.holdsPoint rb Q) :
    exec (.padd rd ra rb) s = .next (s.setPair rd (pAdd s.curve.cp s.curve.ca P Q)).retire :=
  (State.finish_pairs_curve (by simp [hd, ha, hb]) hcrv).trans <|
    (State.finish_bind_ok (State.operandPoint_eq_ok.2 hP)).trans (State.finish_bind_ok (State.operandPoint_eq_ok.2 hQ))

variable (s rd ra) in
/-- Adding a pair to itself is doubling it, with the same checks (R165). -/
theorem exec_padd_self : exec (.padd rd ra ra) s = exec (.pdbl rd ra) s := by
  have hpairs : requirePairs [rd, ra, ra] = requirePairs [rd, ra] := by simp [requirePairs]
  change s.finish _ = s.finish _
  rw [hpairs]
  refine congrArg s.finish (congrArg _ (funext fun _ => congrArg _ (funext fun c => ?_)))
  cases s.operandPoint .invalidLength ra with
  | error => rfl
  | ok P => simp only [bind_ok, pAdd_self]

end

/-! ### The obligations -/

/-- Settles O47: each parameter stands in its slice of the block. -/
theorem crvldConstructsCurve : Obligations.CrvldConstructsCurve := by
  intro s addr hfit
  refine ⟨curveOfBlock (s.dmem.readBytes addr.toNat 120), State.finish_bind_ok (State.memRead_ok hfit),
    s.spells_slice _ (i := 0) (by decide) rfl, s.spells_slice _ (i := 60) (by decide) rfl, fun x => ?_⟩
  have hconv {i : Nat} (hi : i + 20 ≤ 120) (h : s.spells (addr.toNat + i) x) (N : Big 20) :
      (bnToMon (ofBytes 20 (slice (s.dmem.readBytes addr.toNat 120) i (i + 20))) N).toNat =
        toMonValue 20 N.toNat x.toNat := by
    rw [s.spells_unique h (s.spells_slice _ hi (Nat.add_sub_cancel_left i 20)), toNat_bnToMon]
  exact ⟨fun h => hconv (i := 20) (by decide) h _, fun h => hconv (i := 40) (by decide) h _,
    fun h => hconv (i := 80) (by decide) h _, fun h => hconv (i := 100) (by decide) h _,
    fun hlt => toMonValue_eq_mod (BitVec.isLt _).le hlt⟩

/-- Settles O48: each register of the context stands at its place in the dump. -/
theorem crvstDumpsContext : Obligations.CrvstDumpsContext := by
  intro s addr hm hcrv hfit
  have hstore := State.memWrite_ok (s := s) (a := addr.toNat) (l := s.curve.dump) (by simpa using hfit)
  have hplace := s.spells_flatMap hm addr.toNat
    [s.curve.cp, s.curve.ca, s.curve.cb, s.curve.cn, s.curve.cgx, s.curve.cgy]
  rw [← s.curve.dump_eq_flatMap] at hplace
  refine ⟨_, (State.finish_bind_ok (State.operandCurve_ok hcrv)).trans (State.finish_of_ok hstore), ?_,
    hplace 0 (by simp), hplace 1 (by simp), hplace 2 (by simp), hplace 3 (by simp), hplace 4 (by simp), hplace 5 (by simp)⟩
  simpa using s.onlyMem_storeBytes hm addr.toNat s.curve.dump

/-- Settles O49: each coordinate is converted as `BNTOMON` and `BNFROMMON` do. -/
theorem pointConversions : Obligations.PointConversions := by
  intro s rd ra P hd ha hcrv hP
  have hp := s.curve.cp.isLt.le
  have hto (a : Big 20) : (bnToMon a s.curve.cp).toNat = toMonValue 20 s.curve.cp.toNat a.toNat := toNat_bnToMon _ _
  have hfrom (a : Big 20) : (bnFromMon a s.curve.cp).toNat = mulValue 20 s.curve.cp.toNat a.toNat 1 :=
    toNat_bnFromMon (by decide) _ _
  refine ⟨⟨_, pToMon s.curve.cp P, exec_ptomon hd ha hcrv hP, s.holdsPoint_setPair rd _, s.onlyRegs_setPair rd _,
    hto P.x, hto P.y, fun hlt => ?_, fun hlt => ?_, ?_⟩,
    ⟨_, pFromMon s.curve.cp P, exec_pfrommon hd ha hcrv hP, s.holdsPoint_setPair rd _, s.onlyRegs_setPair rd _,
    hfrom P.x, hfrom P.y, fun hodd hx hy => ?_, ?_⟩⟩
  · exact (hto P.x).trans (toMonValue_eq_mod hp hlt)
  · exact (hto P.y).trans (toMonValue_eq_mod hp hlt)
  · rintro rfl
    exact Point.eq_inf ((hto 0).trans (toMonValue_zero _ _)) ((hto 0).trans (toMonValue_zero _ _))
  · have hone {a : Nat} (h : a < s.curve.cp.toNat) :
        mulValue 20 s.curve.cp.toNat a 1 * 2 ^ 160 ≡ a [MOD s.curve.cp.toNat] := by
      simpa only [Nat.mul_one] using mulValue_modEq (n := 20) (b := 1) hp hodd h (by decide)
    rw [pFromMon, hfrom, hfrom]
    exact ⟨mulValue_lt hp hx 1, mulValue_lt hp hy 1, hone hx, hone hy⟩
  · rintro rfl
    exact Point.eq_inf ((hfrom 0).trans (mulValue_zero _ _ (.inl rfl))) ((hfrom 0).trans (mulValue_zero _ _ (.inl rfl)))

/-- Settles O50: the steps of the pseudocode, read as operations on residues. -/
theorem pdblDoubles : Obligations.PdblDoubles := by
  intro s rd ra P hd ha hcrv hP
  refine ⟨_, _, exec_pdbl hd ha hcrv hP, s.holdsPoint_setPair rd _, s.onlyRegs_setPair rd _, rfl, fun hy => if_pos hy, ?_⟩
  intro hp h2 hx hy hca hne
  have hodd : s.curve.cp.toNat % 2 = 1 := hp.eq_two_or_odd.resolve_left h2
  obtain ⟨x, hx'⟩ := exists_represents hodd hx
  obtain ⟨y, hy'⟩ := exists_represents hodd hy
  obtain ⟨a, ha'⟩ := exists_represents hodd hca
  obtain ⟨_, -, hrx, hry⟩ := pDbl_represents hp h2 hx' hy' ha' hne
  refine ⟨hrx.lt, hry.lt, fun x y a fx fy fa => ?_⟩
  obtain ⟨m, hm, hrx, hry⟩ := pDbl_represents hp h2 ⟨hx, fx⟩ ⟨hy, fy⟩ ⟨hca, fa⟩ hne
  exact ⟨m, hm, hrx.form, hry.form⟩

/-- Settles O51: the cases of the pseudocode, and its last one read as operations on residues. -/
theorem paddAdds : Obligations.PaddAdds := by
  refine ⟨exec_padd_self, fun s rd ra rb P Q hd ha hb hcrv hP hQ => ?_⟩
  refine ⟨_, _, exec_padd hd ha hb hcrv hP hQ, s.holdsPoint_setPair rd _, s.onlyRegs_setPair rd _, rfl, ?_, ?_, ?_, ?_, ?_⟩
  · rintro rfl
    exact pAdd_inf_left _ _ _
  · rintro rfl
    exact pAdd_inf_right _ _ _
  · rintro rfl
    rw [exec_pdbl hd ha hcrv hP, exec_padd hd ha hb hcrv hP hQ, pAdd_self]
  · intro hPi hQi hu
    rw [pAdd_of_same_x hPi hQi (bnSubm_eq_zero.2 hu)]
    exact if_congr bnSubm_eq_zero rfl rfl
  · intro hp h2 hx hy hx' hy' hPi hQi
    have hodd : s.curve.cp.toNat % 2 = 1 := hp.eq_two_or_odd.resolve_left h2
    refine ⟨fun hxe hyn => ?_, fun hxn => ?_⟩
    · rw [pAdd_of_same_x hPi hQi ((bnSubm_eq_zero_iff hx).2 hxe.symm),
        if_neg fun h => hyn ((bnSubm_eq_zero_iff hy).1 h).symm]
    · obtain ⟨x, rx⟩ := exists_represents hodd hx
      obtain ⟨y, ry⟩ := exists_represents hodd hy
      obtain ⟨x', rx'⟩ := exists_represents hodd hx'
      obtain ⟨y', ry'⟩ := exists_represents hodd hy'
      obtain ⟨_, -, hrx, hry⟩ := pAdd_represents (ca := s.curve.ca) hp h2 rx ry rx' ry' hPi hQi hxn
      refine ⟨hrx.lt, hry.lt, fun x y x' y' fx fy fx' fy' => ?_⟩
      obtain ⟨m, hm, hrx, hry⟩ :=
        pAdd_represents (ca := s.curve.ca) hp h2 ⟨hx, fx⟩ ⟨hy, fy⟩ ⟨hx', fx'⟩ ⟨hy', fy'⟩ hPi hQi hxn
      exact ⟨m, hm, hrx.form, hry.form⟩

/-- Settles O53: the multiple by `2j + bit` is one pass after the multiple by `j`. -/
theorem pmulDoublesAndAdds : Obligations.PmulDoublesAndAdds := by
  intro n m k j bit p ca P hk
  rw [pMul_eq_multiple, pMul_eq_multiple, hk, multiple_step, pMulStep]

/-- Settles O52: the result is the multiple by the number in the scalar register, whatever its length. -/
theorem pmulScalars : Obligations.PmulScalars := by
  refine ⟨fun s rd ra rb P w k hd ha hcrv hP hk => ?_, fun s rd ra rb rc k k' hk hk' heq => ?_⟩
  · have hrun : exec (.pmul rd ra rb) s = .next (s.setPair rd (pMul s.curve.cp s.curve.ca k P)).retire :=
      (State.finish_point hd ha hcrv hP).trans (State.finish_bind_ok (State.operandScalar_eq_ok (k := ⟨w, k⟩).2 hk))
    refine ⟨_, _, hrun, s.holdsPoint_setPair rd _, s.onlyRegs_setPair rd _, rfl, ?_, ?_, ?_⟩ <;> rw [pMul_eq_multiple]
    · intro h0
      rw [h0, multiple_zero]
    · intro h1
      rw [h1, multiple_one]
    · rintro rfl
      exact multiple_inf _ _ _
  · have hb := State.operandScalar_eq_ok (k := ⟨.w20, k⟩).2 hk
    have hc := State.operandScalar_eq_ok (k := ⟨.w21, k'⟩).2 hk'
    change s.finish _ = s.finish _
    simp only [hb, hc, bind_ok]
    simp only [pMul_eq_multiple, heq]

end Sys2Proof.Machine
end

section
/-!
PROOFS. Signature verification (spec/43_ecdsa_verify.md): the range check, and the seven steps read as the ECDSA equation.
-/

namespace Sys2Proof.Machine

section
variable {s : State} {rh rq rr rs : Reg} {hash r sig : Big 20} {Q : Point}

/-- Running the command when its checks pass (R180, R183). -/
theorem exec_verify (hq : rq.isEven = true) (hcrv : s.crv = true) (hh : s.b.get rh = .val .w20 hash)
    (hQ : s.holdsPoint rq Q) (hr : s.b.get rr = .val .w20 r) (hs : s.b.get rs = .val .w20 sig) :
    exec (.verify rh rq rr rs) s =
      .next { s with v := verify s.curve Q r sig hash, busy := false, done := true } :=
  (State.finish_pairs_curve (by simp [hq]) hcrv).trans <|
    (State.finish_bind_ok (State.operand20_eq_ok.2 hh)).trans <|
    (State.finish_bind_ok (State.operandPoint_eq_ok.2 hQ)).trans <|
    (State.finish_bind_ok (State.operand20_eq_ok.2 hr)).trans (State.finish_bind_ok (State.operand20_eq_ok.2 hs))

end

theorem expand_eq_zero {a : Big 20} : expand a = 0 ↔ a = 0 := by
  rw [← BitVec.toNat_inj, ← BitVec.toNat_inj, toNat_expand]
  rfl

theorem bnCmp_expand_isGE {a b : Big 20} : (bnCmp (expand a) (expand b)).isGE = true ↔ b.toNat ≤ a.toNat := by
  rw [bnCmp_isGE, toNat_expand, toNat_expand]

section
variable (c : CurveContext) (Q : Point) {r sig : Big 20} (hash : Big 20)

/-- Components out of range are rejected (R181). -/
theorem verify_out_of_range (h : r = 0 ∨ sig = 0 ∨ c.cn.toNat ≤ r.toNat ∨ c.cn.toNat ≤ sig.toNat) :
    verify c Q r sig hash = false := by
  unfold verify
  simp only [expand_eq_zero, bnCmp_expand_isGE]
  split
  · rfl
  · next hzero => exact if_pos (by tauto)

/-- For components in range the verdict is that of the seven steps (R181). -/
theorem verify_in_range (hr : r ≠ 0) (hs : sig ≠ 0) (hrlt : r.toNat < c.cn.toNat) (hslt : sig.toNat < c.cn.toNat) :
    verify c Q r sig hash = verifySteps c Q (expand r) (expand sig) hash := by
  unfold verify
  simp only [expand_eq_zero, bnCmp_expand_isGE]
  rw [if_neg (by tauto), if_neg (by omega)]

end

/-! ### The scalars -/

/-- The quotient of the scalar field as the verifier computes it (R182, steps 2 to 4). -/
def quotient {n : Nat} (N e s : Big n) : Big n := bnFromMon (monMul (bnToMon e N) (monInv (bnToMon s N) N) N) N

section
variable {n : Nat} {N e s : Big n}

theorem bnFromMon_bnToMon (hn : 0 < n) (hodd : N.toNat % 2 = 1) (ha : e.toNat < N.toNat) :
    bnFromMon (bnToMon e N) N = e := by
  apply BitVec.eq_of_toNat_eq
  rw [toNat_bnFromMon hn, toNat_bnToMon, mulValue_toMonValue hn N.isLt.le hodd ha]

/-- Modulo an odd number, a nonzero residue has a nonzero Montgomery form. -/
theorem bnToMon_ne_zero (hn : 0 < n) (hodd : N.toNat % 2 = 1) (hs : s.toNat < N.toNat) (hpos : 0 < s.toNat) :
    bnToMon s N ≠ 0 := fun hzero => by
  have hback := congrArg BitVec.toNat (bnFromMon_bnToMon hn hodd hs)
  rw [hzero, toNat_bnFromMon hn, Big.toNat_zero, mulValue_zero _ _ (.inl rfl)] at hback
  omega

/-- The quotient times the divisor is the dividend modulo an odd prime. -/
theorem quotient_spec (hn : 0 < n) (hp : N.toNat.Prime) (h2 : N.toNat ≠ 2) (he : e.toNat < N.toNat)
    (hs : s.toNat < N.toNat) (hpos : 0 < s.toNat) :
    (quotient N e s).toNat < N.toNat ∧ (quotient N e s).toNat * s.toNat ≡ e.toNat [MOD N.toNat] := by
  have hodd : N.toNat % 2 = 1 := hp.eq_two_or_odd.resolve_left h2
  obtain ⟨z, hz, hinv⟩ := (Represents.toMon hs).inv hn hp h2 (bnToMon_ne_zero hn hodd hs hpos)
  obtain ⟨hlt, hval⟩ := ((Represents.toMon he).mul hodd hinv).fromMon hn hodd
  refine ⟨hlt, (ZMod.natCast_eq_natCast_iff _ _ _).1 ?_⟩
  rw [Nat.cast_mul, quotient, hval, mul_assoc, hz, mul_one]

end

/-- The seven steps, with their scalars named (R182). -/
theorem verifySteps_eq (c : CurveContext) (Q : Point) (r21 s21 : Big 21) (hash : Big 20) :
    verifySteps c Q r21 s21 hash = decide (
      bnRed (expand (pFromMon c.cp (pAdd c.cp c.ca
        (pMul c.cp c.ca (quotient (expand c.cn) (bnRed (expand hash) (expand c.cn)) s21) ⟨c.cgx, c.cgy⟩)
        (pMul c.cp c.ca (quotient (expand c.cn) r21 s21) (pToMon c.cp Q)))).x) (expand c.cn) =
      bnFromMon (bnToMon r21 (expand c.cn)) (expand c.cn)) := rfl

/-! ### The obligations -/

/-- Settles O54: the verdict is that of `verify`, by its range check. -/
theorem verifyWritesVerdict : Obligations.VerifyWritesVerdict := by
  intro s rh rq rr rs hash r sig Q hq hcrv hh hQ hr hs
  exact ⟨_, exec_verify hq hcrv hh hQ hr hs, verify_out_of_range _ _ _, verify_in_range _ _ _⟩

/-- Settles O55: the scalars are quotients modulo the order, and the last comparison is one of numbers. -/
theorem verifyAcceptsEcdsa : Obligations.VerifyAcceptsEcdsa := by
  intro s rh rq rr rs hash r sig Q hq hcrv hh hQ hr hs hp h2 hrpos hrlt hspos hslt hhash
  have hN : (expand s.curve.cn).toNat = s.curve.cn.toNat := toNat_expand _
  have hodd : (expand s.curve.cn).toNat % 2 = 1 := hN ▸ hp.eq_two_or_odd.resolve_left h2
  have hrne : r ≠ 0 := fun h => by simp [h] at hrpos
  have hsne : sig ≠ 0 := fun h => by simp [h] at hspos
  have he : (bnRed (expand hash) (expand s.curve.cn)).toNat = hash.toNat % s.curve.cn.toNat := by
    rw [toNat_bnRed_eq, hN, toNat_expand, redValue_eq_mod hhash]
  have hquot {e : Big 21} (helt : e.toNat < s.curve.cn.toNat) := quotient_spec (N := expand s.curve.cn) (e := e)
    (s := expand sig) (by decide) (by rwa [hN]) (by rwa [hN]) (by rwa [hN]) (by rwa [toNat_expand, hN])
    (by rwa [toNat_expand])
  simp only [hN, toNat_expand] at hquot
  obtain ⟨h1lt, h1⟩ := hquot (he ▸ Nat.mod_lt _ hp.pos)
  obtain ⟨h2lt, h2⟩ := hquot (e := expand r) (by rwa [toNat_expand])
  rw [he] at h1
  rw [toNat_expand] at h2
  refine ⟨_, _, h1lt, h2lt, h1.trans (Nat.mod_modEq _ _), h2, ?_⟩
  rintro x rfl
  rw [exec_verify hq hcrv hh hQ hr hs, verify_in_range _ _ _ hrne hsne hrlt hslt, verifySteps_eq,
    bnFromMon_bnToMon (by decide) hodd (by rwa [toNat_expand, hN])]
  simp only [← BitVec.toNat_inj, toNat_bnRed, toNat_expand]

end Sys2Proof.Machine
end

section
/-!
PROOFS. The CMAC unit (spec/44_cmac.md): the byte-serial doubling, the lengths of a chain, OMAC1, and the commands.
-/

namespace Sys2Proof.Machine

/-! ### The doubling -/

theorem getLsbD_byteAt {n : Nat} (x : Big n) (i j : Nat) (hj : j < 8) :
    (byteAt x i).getLsbD j = x.getLsbD (8 * (n - 1 - i) + j) := by
  rw [byteAt, BitVec.getLsbD_extractLsb', decide_eq_true hj, Bool.true_and]

/-- A byte of the shifted block takes its last bit from the next byte (R192). -/
theorem byteAt_shiftLeft_one (x : Big 16) {i : Nat} (hi : i < 15) :
    byteAt (x <<< 1) i = (byteAt x i <<< 1) ||| (byteAt x (i + 1) >>> 7) := by
  refine BitVec.eq_of_getLsbD_eq fun j hj => ?_
  rw [getLsbD_byteAt _ _ _ hj, BitVec.getLsbD_or, BitVec.getLsbD_shiftLeft, BitVec.getLsbD_shiftLeft,
    BitVec.getLsbD_ushiftRight]
  rcases j with _ | j
  · rw [getLsbD_byteAt x (i + 1) (7 + 0) (by decide),
      show 8 * (16 - 1 - i) + 0 - 1 = 8 * (16 - 1 - (i + 1)) + (7 + 0) by omega, decide_eq_true (by omega),
      decide_eq_false (by omega), decide_eq_true (by omega : 0 < 1)]
    simp
  · rw [getLsbD_byteAt _ _ _ (by omega : j + 1 - 1 < 8), BitVec.getLsbD_of_ge _ (7 + (j + 1)) (by omega), Bool.or_false,
      show 8 * (16 - 1 - i) + (j + 1) - 1 = 8 * (16 - 1 - i) + (j + 1 - 1) by omega]
    rw [decide_eq_true (by omega), decide_eq_true hj, decide_eq_false (by omega), decide_eq_false (by omega)]

/-- The last byte of the shifted block takes a zero bit (R192). -/
theorem byteAt_shiftLeft_one_last (x : Big 16) : byteAt (x <<< 1) 15 = byteAt x 15 <<< 1 := by
  refine BitVec.eq_of_getLsbD_eq fun j hj => ?_
  rw [getLsbD_byteAt _ _ _ hj, BitVec.getLsbD_shiftLeft, BitVec.getLsbD_shiftLeft, getLsbD_byteAt _ _ _ (by omega),
    show 8 * (16 - 1 - 15) + j = j by omega, show 8 * (16 - 1 - 15) + (j - 1) = j - 1 by omega,
    decide_eq_true (by omega : j < 8 * 16), decide_eq_true hj]

/-- The bytes of the shifted block, as R192 computes them. -/
def shiftedBytes (x : Big 16) : List Byte :=
  (List.range 15).map (fun i => (byteAt x i <<< 1) ||| (byteAt x (i + 1) >>> 7)) ++ [byteAt x 15 <<< 1]

theorem ofBytes_shiftedBytes (x : Big 16) : ofBytes 16 (shiftedBytes x) = x <<< 1 := by
  have hlen : (shiftedBytes x).length = 16 := by simp [shiftedBytes]
  refine eq_of_byteAt_eq _ _ fun i hi => ?_
  rw [byteAt_ofBytes 16 _ hlen i (by omega)]
  by_cases h : i < 15
  · rw [byteAt_shiftLeft_one x h]
    simp only [shiftedBytes]
    rw [List.getElem_append_left (by simpa using h)]
    simp
  · obtain rfl : i = 15 := by omega
    rw [byteAt_shiftLeft_one_last]
    simp [shiftedBytes]

/-- The bit shifted out is the first bit of the first byte. -/
theorem byteAt_zero_shiftRight (x : Big 16) : byteAt x 0 >>> 7 = 1 ↔ BitVec.msb (n := 128) x = true := by
  have hx := x.isLt
  rw [BitVec.msb_eq_decide, decide_eq_true_iff, ← BitVec.toNat_inj, BitVec.toNat_ushiftRight, toNat_byteAt,
    Nat.shiftRight_eq_div_pow]
  change _ / 256 ^ 15 % 256 / 128 = 1 ↔ _
  omega

theorem dbl128_eq_dblSerial (x : Block) : dbl128 x = dblSerial x := by
  have hshift : dblSerial x = if byteAt (n := 16) x 0 >>> 7 = 1 then ofBytes 16 (shiftedBytes x) ^^^ 0x87#128
      else ofBytes 16 (shiftedBytes x) := rfl
  rw [hshift, ofBytes_shiftedBytes]
  exact if_congr (byteAt_zero_shiftRight x).symm rfl rfl

/-! ### Blocks and byte strings -/

theorem blockOf_blockBytes (x : Block) : blockOf (blockBytes x) = x := ofBytes_toBytes (n := 16) x

theorem length_flatMap_blockBytes (l : List Block) : (l.flatMap blockBytes).length = 16 * l.length := by
  simp [List.length_flatMap, Nat.mul_comm]

/-- The last block of a byte string that ends in 16 given bytes. -/
theorem lastBytes_append {k : Nat} (pre l : List Byte) (h : l.length = k) : lastBytes k (pre ++ l) = l := by
  rw [lastBytes, List.length_append, h, Nat.add_sub_cancel, List.drop_left]

theorem xorLastBlock_append (pre l : List Byte) (kk : Block) (h : l.length = 16) :
    xorLastBlock (pre ++ l) kk = pre ++ blockBytes (blockOf l ^^^ kk) := by
  rw [xorLastBlock, lastBytes_append pre l h, List.length_append, h, Nat.add_sub_cancel, List.take_left]

/-- The blocks of the bytes of blocks. -/
theorem blocksOf_flatMap (l : List Block) : blocksOf (l.flatMap blockBytes) = l := by
  have hlen := length_flatMap_blockBytes l
  refine List.ext_getElem (by simp [blocksOf, hlen]) fun k h1 h2 => ?_
  have hsplit : l.flatMap blockBytes =
      (l.take k).flatMap blockBytes ++ (blockBytes l[k] ++ (l.drop (k + 1)).flatMap blockBytes) := by
    rw [← List.flatMap_cons, ← List.flatMap_append, ← List.drop_eq_getElem_cons h2, List.take_append_drop]
  have hpre : ((l.take k).flatMap blockBytes).length = 16 * k := by
    rw [length_flatMap_blockBytes, List.length_take, Nat.min_eq_left (Nat.le_of_lt h2)]
  have hslice : slice (l.flatMap blockBytes) (16 * k) (16 * k + 16) = blockBytes l[k] := by
    rw [slice, hsplit, List.drop_left' hpre, Nat.add_sub_cancel_left, List.take_left' (length_blockBytes _)]
  simp only [blocksOf, List.getElem_map, List.getElem_range, hslice, blockOf_blockBytes]

/-! ### The ciphertext chain -/

@[simp] theorem length_cbcFrom (key prev : Block) (l : List Block) : (cbcFrom key prev l).length = l.length := by
  induction l generalizing prev with
  | nil => rfl
  | cons x l ih => rw [cbcFrom, List.length_cons, ih, List.length_cons]

/-- The chain of one more block ends in the encryption of that block and the chaining value. -/
theorem cbcFrom_append (key prev x : Block) (l : List Block) : cbcFrom key prev (l ++ [x]) =
    cbcFrom key prev l ++ [Config.aes128Enc key (x ^^^ l.foldl (fun c x => Config.aes128Enc key (x ^^^ c)) prev)] := by
  induction l generalizing prev with
  | nil => rfl
  | cons y l ih => simp only [List.cons_append, cbcFrom, ih, List.foldl_cons]

/-- The end of the chain of blocks (R196). -/
theorem lastBytes_cbc (key : Block) (blocks : List Block) (x : Block) :
    lastBytes 16 (cbc key (blocks.flatMap blockBytes ++ blockBytes x)) =
      blockBytes (Config.aes128Enc key (x ^^^ chainValue key blocks)) := by
  have hone : blocks.flatMap blockBytes ++ blockBytes x = (blocks ++ [x]).flatMap blockBytes := by
    rw [List.flatMap_append, List.flatMap_singleton]
  rw [hone, cbc, blocksOf_flatMap, cbcFrom_append, List.flatMap_append, List.flatMap_singleton]
  exact lastBytes_append _ _ (length_blockBytes _)

theorem length_cbc (key : Block) (m : List Byte) : (cbc key m).length = 16 * (m.length / 16) := by
  rw [cbc, length_flatMap_blockBytes, length_cbcFrom, blocksOf, List.length_map, List.length_range]

theorem length_xorLastBlock (m : List Byte) (kk : Block) (h : 16 ≤ m.length) : (xorLastBlock m kk).length = m.length := by
  rw [xorLastBlock, List.length_append, length_blockBytes, List.length_take]
  omega

theorem length_padMessage (msg : List Byte) : (padMessage msg).length = 16 * (msg.length / 16 + 1) := by
  rw [padMessage, List.length_append, List.length_cons, List.length_replicate]
  omega

/-- A prepared message has whole blocks, at least one, and no fewer bytes than the message (R195). -/
theorem length_prepare (msg : List Byte) (k1 k2 : Block) :
    ∃ blocks, (prepare msg k1 k2).length = 16 * blocks ∧ 0 < blocks ∧ msg.length ≤ 16 * blocks := by
  unfold prepare
  split
  · next h =>
    refine ⟨msg.length / 16, ?_, by omega, by omega⟩
    rw [length_xorLastBlock _ _ (by omega)]
    omega
  · refine ⟨msg.length / 16 + 1, ?_, by omega, by omega⟩
    rw [length_xorLastBlock _ _ (by rw [length_padMessage]; omega), length_padMessage]

theorem cmacChain_eq (key : Block) (msg : List Byte) :
    cmacChain key msg = cbc key (prepare msg (subkeys key).1 (subkeys key).2) := rfl

/-- The chain is as long as the prepared message. -/
theorem length_cmacChain (key : Block) (msg : List Byte) :
    16 ≤ (cmacChain key msg).length ∧ (16 < msg.length → 20 ≤ (cmacChain key msg).length) := by
  obtain ⟨blocks, hlen, hpos, hle⟩ := length_prepare msg (subkeys key).1 (subkeys key).2
  rw [cmacChain_eq, length_cbc, hlen, Nat.mul_div_cancel_left _ (by decide)]
  omega

theorem length_lastBytes {k : Nat} {l : List Byte} (h : k ≤ l.length) : (lastBytes k l).length = k := by
  rw [lastBytes, List.length_drop]
  omega

theorem length_mac16 (key : Block) (msg : List Byte) : (mac16 key msg).length = 16 :=
  length_lastBytes (length_cmacChain key msg).1

theorem length_mac20 (key : Block) {msg : List Byte} (h : 16 < msg.length) : (mac20 key msg).length = 20 :=
  length_lastBytes ((length_cmacChain key msg).2 h)

/-- The 20-byte MAC ends in the 16-byte MAC (R196). -/
theorem drop_mac20 (key : Block) {msg : List Byte} (h : 16 < msg.length) : (mac20 key msg).drop 4 = mac16 key msg := by
  have hlen := (length_cmacChain key msg).2 h
  rw [mac20, mac16, lastBytes, lastBytes, List.drop_drop]
  congr 1
  omega

/-- Reading back what was stored. -/
theorem Memory.readBytes_writeBytes {m : Memory} (hm : m.wf) (a : Nat) (l : List Byte) {n : Nat} (h : l.length = n) :
    (m.writeBytes a l).readBytes a n = l := by
  refine List.ext_getElem (by rw [Memory.length_readBytes, h]) fun i h1 h2 => ?_
  rw [Memory.getElem_readBytes, Memory.read_writeBytes m hm, dif_pos (by omega)]
  simp only [Nat.add_sub_cancel_left]

/-- Reading the key and the message (R197, R198). -/
theorem State.finish_message {s : State} {f : Block → List Byte → Except FaultCode State} (hkey : s.keyv = true)
    (hmsg : s.msgaddr.toNat + s.msglen.toNat ≤ s.dmemBytes) :
    s.finish (do
      let key ← s.operandKey
      let msg ← s.memRead s.msgaddr.toNat s.msglen.toNat
      f key msg) = s.finish (f s.key (s.dmem.readBytes s.msgaddr.toNat s.msglen.toNat)) :=
  (State.finish_bind_ok (State.operandKey_ok hkey)).trans (State.finish_bind_ok (State.memRead_ok hmsg))

/-! ### The obligations -/

/-- Settles O56: the block read is the key. -/
theorem keyldLoadsKey : Obligations.KeyldLoadsKey := by
  intro s addr hfit
  exact ⟨blockOf (s.dmem.readBytes addr.toNat 16), (State.finish_bind_ok rfl).trans
    (State.finish_bind_ok (State.memRead_ok hfit)), s.spells_ofBytes _ 16⟩

/-- Settles O57: the doubling byte by byte, and the two subkeys one after the other in memory. -/
theorem subkeysDerivedAndStored : Obligations.SubkeysDerivedAndStored := by
  refine ⟨dbl128_eq_dblSerial, fun s hkey => State.finish_bind_ok (State.operandKey_ok hkey), fun s addr hm hskv hfit => ?_⟩
  have hl : [s.k1, s.k2].flatMap (toBytes (n := 16)) = blockBytes s.k1 ++ blockBytes s.k2 := by
    simp [blockBytes]
  have hplace := s.spells_flatMap hm addr.toNat (n := 16) [s.k1, s.k2]
  rw [hl] at hplace
  have hstore := State.memWrite_ok (s := s) (a := addr.toNat) (l := blockBytes s.k1 ++ blockBytes s.k2) (by simpa using hfit)
  refine ⟨_, (State.finish_bind_ok (State.operandSubkeys_ok hskv)).trans (State.finish_of_ok hstore), ?_,
    hplace 0 (by simp), hplace 1 (by simp)⟩
  simpa using s.onlyMem_storeBytes hm addr.toNat (blockBytes s.k1 ++ blockBytes s.k2)

/-- Settles O58: the message is read, the subkeys derived, the MAC stored. -/
theorem cmacWritesMac : Obligations.CmacWritesMac := by
  rintro s addr msg hm hkey hmsg rfl
  refine ⟨fun hfit => ?_, fun hfit hlong => ?_⟩
  · have hlen := length_mac16 s.key (s.dmem.readBytes s.msgaddr.toNat s.msglen.toNat)
    exact ⟨_, (State.finish_message hkey hmsg).trans (State.finish_bind_ok (State.checkRange_ok hfit)),
      Memory.readBytes_writeBytes hm _ _ hlen,
      rfl, rfl, rfl, fun a ha => Memory.read_writeBytes_outside hm (by rwa [hlen])⟩
  · have hmsglen : 16 < (s.dmem.readBytes s.msgaddr.toNat s.msglen.toNat).length := by simpa using hlong
    have hlen := length_mac20 s.key hmsglen
    exact ⟨_, (State.finish_message hkey hmsg).trans <| (State.finish_bind_ok (State.checkRange_ok hfit)).trans
      (State.finish_bind_ok (a := ()) (require_eq_ok.2 (decide_eq_true hlong))), Memory.readBytes_writeBytes hm _ _ hlen,
      drop_mac20 _ hmsglen, rfl, rfl, rfl, fun a ha => Memory.read_writeBytes_outside hm (by rwa [hlen])⟩

/-- Settles O59: the prepared message is the whole blocks and one folded block, whose encryption ends the chain. -/
theorem macIsOmacOne : Obligations.MacIsOmacOne := by
  intro key blocks
  refine ⟨fun last => ?_, fun tail htail hempty => ?_⟩
  · have hlen : ((blocks ++ [last]).flatMap blockBytes).length = 16 * (blocks.length + 1) := by
      rw [length_flatMap_blockBytes, List.length_append, List.length_singleton]
    rw [mac16, cmacChain_eq, prepare, if_pos (by omega), List.flatMap_append, List.flatMap_singleton,
      xorLastBlock_append _ _ _ (length_blockBytes last), blockOf_blockBytes, lastBytes_cbc]
  · have hlen : (blocks.flatMap blockBytes ++ tail).length = 16 * blocks.length + tail.length := by
      rw [List.length_append, length_flatMap_blockBytes]
    have hrest : ¬ ((blocks.flatMap blockBytes ++ tail).length ≠ 0 ∧
        (blocks.flatMap blockBytes ++ tail).length % 16 = 0) := by
      rintro ⟨hne, hmod⟩
      have hnil := List.length_eq_zero_iff.1 (by omega : tail.length = 0)
      rw [hlen, hempty hnil, hnil] at hne
      exact hne rfl
    have hpad : padMessage (blocks.flatMap blockBytes ++ tail) =
        blocks.flatMap blockBytes ++ (tail ++ 0x80 :: List.replicate (15 - tail.length) 0) := by
      rw [padMessage, hlen, Nat.mul_add_mod, Nat.mod_eq_of_lt htail, List.append_assoc]
    have hblock : (tail ++ (0x80 : Byte) :: List.replicate (15 - tail.length) 0).length = 16 := by
      rw [List.length_append, List.length_cons, List.length_replicate]
      omega
    rw [mac16, cmacChain_eq, prepare, if_neg hrest, hpad, xorLastBlock_append _ _ _ hblock, lastBytes_cbc]

end Sys2Proof.Machine
end
